-- ==== Sys2Proof/Word.lean ====
section
/-!
DEFINITION. The word types of chip8_cpu_core: bytes, 16-bit words, register and key numbers.
All values are unsigned (00_scope.md R8); the widths are those of R5.
-/

namespace Sys2Proof

/-- One byte: a general register, a timer, a memory cell (R5, R20, R30). -/
abbrev Byte := BitVec 8

/-- One 16-bit word: `I`, `PC`, a call-stack slot, an opcode (R5, R22, R23, R28, R90). -/
abbrev Word := BitVec 16

/-- The number of a general register, `V0` to `VF` (R20). -/
abbrev Reg := Fin 16

/-- The number of a logical key, `0` to `15` (R33). -/
abbrev Key := Fin 16

/-- The flag register `VF`, which is `V[15]` (R21). -/
abbrev regF : Reg := 15

/-- The register `V0`, the offset register of `Bnnn` (R141). -/
abbrev reg0 : Reg := 0

end Sys2Proof
end

