-- ==== Sys2Proof/Syntax.lean ====
section
/-!
DEFINITION. The instruction set: one constructor per row of spec/opcode_table.json, 34 in all
(30_encoding.md R95 to R99). Operand types have exactly the width of the field they stand for (R91, R93),
so that no ill-formed instruction can be written.
-/

namespace Sys2Proof

/-- The 34 instructions. `x` and `y` are register numbers, `nn` an 8-bit immediate, `nnn` a 12-bit address or
immediate, `n` a 4-bit row count (R91). -/
inductive Instr where
  /-- `00E0` CLS: clear the pixel grid (R220). -/
  | cls
  /-- `00EE` RET: return from a subroutine (R143). -/
  | ret
  /-- `1nnn` JP nnn: jump (R140). -/
  | jpNnn (nnn : BitVec 12)
  /-- `2nnn` CALL nnn: call a subroutine (R142). -/
  | callNnn (nnn : BitVec 12)
  /-- `3xnn` SE Vx, nn: skip if equal to the immediate (R144). -/
  | seVxNn (x : Reg) (nn : Byte)
  /-- `4xnn` SNE Vx, nn: skip if not equal to the immediate (R145). -/
  | sneVxNn (x : Reg) (nn : Byte)
  /-- `5xy0` SE Vx, Vy: skip if the registers are equal (R146). -/
  | seVxVy (x y : Reg)
  /-- `6xnn` LD Vx, nn: load an immediate (R160). -/
  | ldVxNn (x : Reg) (nn : Byte)
  /-- `7xnn` ADD Vx, nn: add an immediate, no flag (R161). -/
  | addVxNn (x : Reg) (nn : Byte)
  /-- `8xy0` LD Vx, Vy: copy (R162). -/
  | ldVxVy (x y : Reg)
  /-- `8xy1` OR Vx, Vy (R163). -/
  | orVxVy (x y : Reg)
  /-- `8xy2` AND Vx, Vy (R164). -/
  | andVxVy (x y : Reg)
  /-- `8xy3` XOR Vx, Vy (R165). -/
  | xorVxVy (x y : Reg)
  /-- `8xy4` ADD Vx, Vy: add with carry out (R166). -/
  | addVxVy (x y : Reg)
  /-- `8xy5` SUB Vx, Vy: subtract (R167). -/
  | subVxVy (x y : Reg)
  /-- `8xy6` SHR Vx: shift right by one (R168). `y` is the ignored field, kept so that no bit of the word is
  lost (R101). -/
  | shrVx (x y : Reg)
  /-- `8xy7` SUBN Vx, Vy: reverse subtract (R169). -/
  | subnVxVy (x y : Reg)
  /-- `8xyE` SHL Vx: shift left by one (R170). `y` is the ignored field (R101). -/
  | shlVx (x y : Reg)
  /-- `9xy0` SNE Vx, Vy: skip if the registers differ (R147). -/
  | sneVxVy (x y : Reg)
  /-- `Annn` LD I, nnn (R180). -/
  | ldINnn (nnn : BitVec 12)
  /-- `Bnnn` JP V0, nnn: jump with offset (R141). -/
  | jpV0Nnn (nnn : BitVec 12)
  /-- `Cxnn` RND Vx, nn: masked random byte (R240). -/
  | rndVxNn (x : Reg) (nn : Byte)
  /-- `Dxyn` DRW Vx, Vy, n: draw a sprite (R221). -/
  | drwVxVyN (x y : Reg) (n : BitVec 4)
  /-- `Ex9E` SKP Vx: skip if the key is pressed (R206). -/
  | skpVx (x : Reg)
  /-- `ExA1` SKNP Vx: skip if the key is not pressed (R207). -/
  | sknpVx (x : Reg)
  /-- `Fx07` LD Vx, DT: read the delay timer (R200). -/
  | ldVxDt (x : Reg)
  /-- `Fx0A` LD Vx, K: wait for a key press and release (R204). -/
  | ldVxK (x : Reg)
  /-- `Fx15` LD DT, Vx: set the delay timer (R201). -/
  | ldDtVx (x : Reg)
  /-- `Fx18` LD ST, Vx: set the sound timer (R202). -/
  | ldStVx (x : Reg)
  /-- `Fx1E` ADD I, Vx (R181). -/
  | addIVx (x : Reg)
  /-- `Fx29` LD F, Vx: point `I` at a glyph (R182). -/
  | ldFVx (x : Reg)
  /-- `Fx33` LD B, Vx: store the decimal digits (R183). -/
  | ldBVx (x : Reg)
  /-- `Fx55` LD [I], Vx: store `V0..Vx` (R184). -/
  | ldMiVx (x : Reg)
  /-- `Fx65` LD Vx, [I]: load `V0..Vx` (R185). -/
  | ldVxMi (x : Reg)
  deriving DecidableEq, Repr

/-- The identifier of an instruction's row in spec/opcode_table.json (R104, R107). -/
def Instr.mnemonic : Instr → String
  | .cls => "CLS"
  | .ret => "RET"
  | .jpNnn _ => "JP_NNN"
  | .callNnn _ => "CALL_NNN"
  | .seVxNn _ _ => "SE_VX_NN"
  | .sneVxNn _ _ => "SNE_VX_NN"
  | .seVxVy _ _ => "SE_VX_VY"
  | .ldVxNn _ _ => "LD_VX_NN"
  | .addVxNn _ _ => "ADD_VX_NN"
  | .ldVxVy _ _ => "LD_VX_VY"
  | .orVxVy _ _ => "OR_VX_VY"
  | .andVxVy _ _ => "AND_VX_VY"
  | .xorVxVy _ _ => "XOR_VX_VY"
  | .addVxVy _ _ => "ADD_VX_VY"
  | .subVxVy _ _ => "SUB_VX_VY"
  | .shrVx _ _ => "SHR_VX"
  | .subnVxVy _ _ => "SUBN_VX_VY"
  | .shlVx _ _ => "SHL_VX"
  | .sneVxVy _ _ => "SNE_VX_VY"
  | .ldINnn _ => "LD_I_NNN"
  | .jpV0Nnn _ => "JP_V0_NNN"
  | .rndVxNn _ _ => "RND_VX_NN"
  | .drwVxVyN _ _ _ => "DRW_VX_VY_N"
  | .skpVx _ => "SKP_VX"
  | .sknpVx _ => "SKNP_VX"
  | .ldVxDt _ => "LD_VX_DT"
  | .ldVxK _ => "LD_VX_K"
  | .ldDtVx _ => "LD_DT_VX"
  | .ldStVx _ => "LD_ST_VX"
  | .addIVx _ => "ADD_I_VX"
  | .ldFVx _ => "LD_F_VX"
  | .ldBVx _ => "LD_B_VX"
  | .ldMiVx _ => "LD_MI_VX"
  | .ldVxMi _ => "LD_VX_MI"

end Sys2Proof
end

