-- ==== Sys2Proof/WellFormed.lean ====
section
/-!
DEFINITION. What the spec requires of data given to the machine before it is meaningful.
The operand types of `Instr` are exact, so every instruction is well formed: "every value 0..15 is legal"
for a register field, `F` included, and no field value is reserved (30_encoding.md R93, R101).
What is left to check is a ROM image (20_memory.md R77).
-/

namespace Sys2Proof

/-- A ROM image may be loaded when it fits behind the load address: `rom_byte_count <= 3584`
(20_memory.md R77, 00_scope.md R5, decision D10). -/
def romWellFormed (rom : List Byte) : Bool :=
  rom.length ≤ 3584

end Sys2Proof
end

