-- ==== Sys2Proof/Decode.lean ====
section
/-!
DEFINITION. The decoder `opcode_decoder` (30_encoding.md R90 to R101, 40_engine_step.md R123), the encoder, and
the opcode table of spec/opcode_table.json as data.
-/

namespace Sys2Proof

/-- Why an opcode is illegal: the three sub-kinds of `DecodeError` (30_encoding.md R100, 60_exceptions.md R251). -/
inductive IllegalOpcode where
  /-- An undefined primary selector, an undefined `E` or `F` selector, or class `0` other than `00E0`, `00EE`. -/
  | unknownOpcode
  /-- An undefined class-`8` selector. -/
  | unknownOperation
  /-- `5xyn` or `9xyn` with `n` not zero (90_conflicts.md C4). -/
  | malformedOpcode
  deriving DecidableEq, Repr

/-- Why a byte sequence is not an instruction. -/
inductive DecodeReject where
  /-- Fewer than two bytes (R90). -/
  | truncated
  /-- Two bytes whose opcode is illegal. -/
  | illegal (e : IllegalOpcode)
  deriving DecidableEq, Repr

/-- The opcode of two consecutive bytes, the first being the high byte (20_memory.md R64). -/
def opcodeOf (hi lo : Byte) : Word := hi ++ lo

/-- The class of an opcode, `op[15:12]` (R91). -/
def fieldUpper (op : Word) : BitVec 4 := op.extractLsb' 12 4

/-- The field `x`, `op[11:8]`, a register number (R91). -/
def fieldX (op : Word) : Reg := (op.extractLsb' 8 4).toFin

/-- The field `y`, `op[7:4]`, a register number (R91). -/
def fieldY (op : Word) : Reg := (op.extractLsb' 4 4).toFin

/-- The field `n`, `op[3:0]` (R91). -/
def fieldN (op : Word) : BitVec 4 := op.extractLsb' 0 4

/-- The field `nn`, `op[7:0]` (R91). -/
def fieldNn (op : Word) : Byte := op.extractLsb' 0 8

/-- The field `nnn`, `op[11:0]` (R91). -/
def fieldNnn (op : Word) : BitVec 12 := op.extractLsb' 0 12

/-- Class `8`, dispatched by `n` (R97). -/
def decodeClass8 (op : Word) : Except IllegalOpcode Instr :=
  match fieldN op with
  | 0x0#4 => .ok (.ldVxVy (fieldX op) (fieldY op))
  | 0x1#4 => .ok (.orVxVy (fieldX op) (fieldY op))
  | 0x2#4 => .ok (.andVxVy (fieldX op) (fieldY op))
  | 0x3#4 => .ok (.xorVxVy (fieldX op) (fieldY op))
  | 0x4#4 => .ok (.addVxVy (fieldX op) (fieldY op))
  | 0x5#4 => .ok (.subVxVy (fieldX op) (fieldY op))
  | 0x6#4 => .ok (.shrVx (fieldX op) (fieldY op))
  | 0x7#4 => .ok (.subnVxVy (fieldX op) (fieldY op))
  | 0xE#4 => .ok (.shlVx (fieldX op) (fieldY op))
  | _ => .error .unknownOperation

/-- Class `E`, dispatched by `nn` (R98). -/
def decodeClassE (op : Word) : Except IllegalOpcode Instr :=
  match fieldNn op with
  | 0x9E#8 => .ok (.skpVx (fieldX op))
  | 0xA1#8 => .ok (.sknpVx (fieldX op))
  | _ => .error .unknownOpcode

/-- Class `F`, dispatched by `nn` (R99). -/
def decodeClassF (op : Word) : Except IllegalOpcode Instr :=
  match fieldNn op with
  | 0x07#8 => .ok (.ldVxDt (fieldX op))
  | 0x0A#8 => .ok (.ldVxK (fieldX op))
  | 0x15#8 => .ok (.ldDtVx (fieldX op))
  | 0x18#8 => .ok (.ldStVx (fieldX op))
  | 0x1E#8 => .ok (.addIVx (fieldX op))
  | 0x29#8 => .ok (.ldFVx (fieldX op))
  | 0x33#8 => .ok (.ldBVx (fieldX op))
  | 0x55#8 => .ok (.ldMiVx (fieldX op))
  | 0x65#8 => .ok (.ldVxMi (fieldX op))
  | _ => .error .unknownOpcode

/-- Every opcode other than `00E0` and `00EE`, dispatched by its class (R94, R95). -/
def decodeByClass (op : Word) : Except IllegalOpcode Instr :=
  match fieldUpper op with
  | 0x0#4 => .error .unknownOpcode
  | 0x1#4 => .ok (.jpNnn (fieldNnn op))
  | 0x2#4 => .ok (.callNnn (fieldNnn op))
  | 0x3#4 => .ok (.seVxNn (fieldX op) (fieldNn op))
  | 0x4#4 => .ok (.sneVxNn (fieldX op) (fieldNn op))
  | 0x5#4 => if fieldN op = 0 then .ok (.seVxVy (fieldX op) (fieldY op)) else .error .malformedOpcode
  | 0x6#4 => .ok (.ldVxNn (fieldX op) (fieldNn op))
  | 0x7#4 => .ok (.addVxNn (fieldX op) (fieldNn op))
  | 0x8#4 => decodeClass8 op
  | 0x9#4 => if fieldN op = 0 then .ok (.sneVxVy (fieldX op) (fieldY op)) else .error .malformedOpcode
  | 0xA#4 => .ok (.ldINnn (fieldNnn op))
  | 0xB#4 => .ok (.jpV0Nnn (fieldNnn op))
  | 0xC#4 => .ok (.rndVxNn (fieldX op) (fieldNn op))
  | 0xD#4 => .ok (.drwVxVyN (fieldX op) (fieldY op) (fieldN op))
  | 0xE#4 => decodeClassE op
  | _ => decodeClassF op

/-- The decoder: total on all 65536 opcodes (R94, R100, R123). -/
def decode (op : Word) : Except IllegalOpcode Instr :=
  if op = 0x00E0#16 then .ok .cls
  else if op = 0x00EE#16 then .ok .ret
  else decodeByClass op

/-- The decoder on a byte sequence as it lies in memory; it always consumes exactly two bytes (R90, R103). -/
def decodeBytes : List Byte → Except DecodeReject (Instr × List Byte)
  | hi :: lo :: rest =>
    match decode (opcodeOf hi lo) with
    | .ok i => .ok (i, rest)
    | .error e => .error (.illegal e)
  | _ => .error .truncated

/-- The four bits of a register field. -/
def regField (x : Reg) : BitVec 4 := BitVec.ofFin x

/-- A word of format `NNN` (R92). -/
def encodeNnn (cls : BitVec 4) (nnn : BitVec 12) : Word := cls ++ nnn

/-- A word of format `XNN` (R92); also of format `XSS`, whose two selector digits stand where `nn` stands. -/
def encodeXnn (cls : BitVec 4) (x : Reg) (nn : Byte) : Word := cls ++ regField x ++ nn

/-- A word of formats `XY0`, `XYS` and `XYN` (R92). -/
def encodeXyn (cls : BitVec 4) (x y : Reg) (n : BitVec 4) : Word := cls ++ regField x ++ regField y ++ n

/-- The opcode of an instruction, written from the patterns of R95 to R99. -/
def encode : Instr → Word
  | .cls => 0x00E0
  | .ret => 0x00EE
  | .jpNnn nnn => encodeNnn 0x1 nnn
  | .callNnn nnn => encodeNnn 0x2 nnn
  | .seVxNn x nn => encodeXnn 0x3 x nn
  | .sneVxNn x nn => encodeXnn 0x4 x nn
  | .seVxVy x y => encodeXyn 0x5 x y 0x0
  | .ldVxNn x nn => encodeXnn 0x6 x nn
  | .addVxNn x nn => encodeXnn 0x7 x nn
  | .ldVxVy x y => encodeXyn 0x8 x y 0x0
  | .orVxVy x y => encodeXyn 0x8 x y 0x1
  | .andVxVy x y => encodeXyn 0x8 x y 0x2
  | .xorVxVy x y => encodeXyn 0x8 x y 0x3
  | .addVxVy x y => encodeXyn 0x8 x y 0x4
  | .subVxVy x y => encodeXyn 0x8 x y 0x5
  | .shrVx x y => encodeXyn 0x8 x y 0x6
  | .subnVxVy x y => encodeXyn 0x8 x y 0x7
  | .shlVx x y => encodeXyn 0x8 x y 0xE
  | .sneVxVy x y => encodeXyn 0x9 x y 0x0
  | .ldINnn nnn => encodeNnn 0xA nnn
  | .jpV0Nnn nnn => encodeNnn 0xB nnn
  | .rndVxNn x nn => encodeXnn 0xC x nn
  | .drwVxVyN x y n => encodeXyn 0xD x y n
  | .skpVx x => encodeXnn 0xE x 0x9E
  | .sknpVx x => encodeXnn 0xE x 0xA1
  | .ldVxDt x => encodeXnn 0xF x 0x07
  | .ldVxK x => encodeXnn 0xF x 0x0A
  | .ldDtVx x => encodeXnn 0xF x 0x15
  | .ldStVx x => encodeXnn 0xF x 0x18
  | .addIVx x => encodeXnn 0xF x 0x1E
  | .ldFVx x => encodeXnn 0xF x 0x29
  | .ldBVx x => encodeXnn 0xF x 0x33
  | .ldMiVx x => encodeXnn 0xF x 0x55
  | .ldVxMi x => encodeXnn 0xF x 0x65

/-- The high byte of a word, which lies at the lower address (20_memory.md R64). -/
def highByte (w : Word) : Byte := w.extractLsb' 8 8

/-- The low byte of a word. -/
def lowByte (w : Word) : Byte := w.extractLsb' 0 8

/-- The bytes of an opcode in memory order (R90, 20_memory.md R64). -/
def bytesOf (w : Word) : List Byte := [highByte w, lowByte w]

/-- The rows of spec/opcode_table.json for classes `0` to `7`: mnemonic, mask, match (R107). -/
def opcodeTableLow : List (String × Word × Word) :=
  [ ("CLS", 0xFFFF, 0x00E0), ("RET", 0xFFFF, 0x00EE), ("JP_NNN", 0xF000, 0x1000), ("CALL_NNN", 0xF000, 0x2000),
    ("SE_VX_NN", 0xF000, 0x3000), ("SNE_VX_NN", 0xF000, 0x4000), ("SE_VX_VY", 0xF00F, 0x5000),
    ("LD_VX_NN", 0xF000, 0x6000), ("ADD_VX_NN", 0xF000, 0x7000) ]

/-- The rows of class `8`. -/
def opcodeTableClass8 : List (String × Word × Word) :=
  [ ("LD_VX_VY", 0xF00F, 0x8000), ("OR_VX_VY", 0xF00F, 0x8001), ("AND_VX_VY", 0xF00F, 0x8002),
    ("XOR_VX_VY", 0xF00F, 0x8003), ("ADD_VX_VY", 0xF00F, 0x8004), ("SUB_VX_VY", 0xF00F, 0x8005),
    ("SHR_VX", 0xF00F, 0x8006), ("SUBN_VX_VY", 0xF00F, 0x8007), ("SHL_VX", 0xF00F, 0x800E) ]

/-- The rows of classes `9` to `E`. -/
def opcodeTableHigh : List (String × Word × Word) :=
  [ ("SNE_VX_VY", 0xF00F, 0x9000), ("LD_I_NNN", 0xF000, 0xA000), ("JP_V0_NNN", 0xF000, 0xB000),
    ("RND_VX_NN", 0xF000, 0xC000), ("DRW_VX_VY_N", 0xF000, 0xD000), ("SKP_VX", 0xF0FF, 0xE09E),
    ("SKNP_VX", 0xF0FF, 0xE0A1) ]

/-- The rows of class `F`. -/
def opcodeTableClassF : List (String × Word × Word) :=
  [ ("LD_VX_DT", 0xF0FF, 0xF007), ("LD_VX_K", 0xF0FF, 0xF00A), ("LD_DT_VX", 0xF0FF, 0xF015),
    ("LD_ST_VX", 0xF0FF, 0xF018), ("ADD_I_VX", 0xF0FF, 0xF01E), ("LD_F_VX", 0xF0FF, 0xF029),
    ("LD_B_VX", 0xF0FF, 0xF033), ("LD_MI_VX", 0xF0FF, 0xF055), ("LD_VX_MI", 0xF0FF, 0xF065) ]

/-- The whole opcode table, 34 rows (R107). The decoder is not built from it; a statement compares the two. -/
def opcodeTable : List (String × Word × Word) :=
  opcodeTableLow ++ opcodeTableClass8 ++ opcodeTableHigh ++ opcodeTableClassF

/-- An opcode selects a row exactly when `(op & mask) = match` (R107). -/
def rowSelects (row : String × Word × Word) (op : Word) : Bool :=
  op &&& row.2.1 == row.2.2

/-- The instruction the decoder reads from the opcode whose bits are `w`, of which `nbits` are given and the
others are zero: the opcode's two bytes, high byte first, through the decoder. -/
def decodeTableWord (nbits w : Nat) : Option Instr :=
  match decodeBytes (bytesOf (BitVec.ofNat 16 (w % 2 ^ nbits))) with
  | .ok (i, _) => some i
  | .error _ => none

end Sys2Proof
end

