-- ==== Sys2Proof/Config.lean ====
section
/-!
DEFINITION. What a launch of the machine fixes (00_scope.md R5, 10_state.md R40) and the free values.
-/

namespace Sys2Proof

/-- The open parameter `KEYWAIT_RELEASE_MATCH` (R5, R210, decision D21): which key-up ends the wait of `Fx0A`
and which key is committed. The value in force is a field of the state; its default is `sameKey`. -/
inductive ReleaseMatch where
  /-- Only the release of the latched key ends the wait (the spec's default; 90_conflicts.md C3). -/
  | sameKey
  /-- Any release ends the wait and the released key is committed. -/
  | anyKeyCommitReleased
  /-- Any release ends the wait and the latched key is committed. -/
  | anyKeyCommitLatched
  deriving DecidableEq, Repr

/-- FREE VALUE. The `n`-th byte the host's random source presents, the first being there when the machine starts. It
has no law (R37, R241, decision D25) and no body here: a claim holds for every byte at every draw. Log entry 21. -/
opaque Config.randByte : Nat → Byte

end Sys2Proof
end

