-- ==== Sys2Proof/Machine/Defaults.lean ====
section
/-!
DEFINITION. The values the machine starts from where the source states none: the reset values the spec decides
(10_state.md R39, decisions D2 to D9, D29), the default font (20_memory.md R71, decision D7) and the default of
`KEYWAIT_RELEASE_MATCH` (decision D21). They stand apart from the state so that each can be mended by itself.
-/

namespace Sys2Proof.Machine

/-- The glyphs of the digits `0` to `7`, five bytes each (R71). PRESUMED: the conventional CHIP-8 font. Log entry 3. -/
def glyphsLow : List Byte :=
  [0xF0, 0x90, 0x90, 0x90, 0xF0] ++ [0x20, 0x60, 0x20, 0x20, 0x70] ++
  [0xF0, 0x10, 0xF0, 0x80, 0xF0] ++ [0xF0, 0x10, 0xF0, 0x10, 0xF0] ++
  [0x90, 0x90, 0xF0, 0x10, 0x10] ++ [0xF0, 0x80, 0xF0, 0x10, 0xF0] ++
  [0xF0, 0x80, 0xF0, 0x90, 0xF0] ++ [0xF0, 0x10, 0x20, 0x40, 0x40]

/-- The glyphs of the digits `8` to `F` (R71). PRESUMED. Log entry 3. -/
def glyphsHigh : List Byte :=
  [0xF0, 0x90, 0xF0, 0x90, 0xF0] ++ [0xF0, 0x90, 0xF0, 0x10, 0xF0] ++
  [0xF0, 0x90, 0xF0, 0x90, 0x90] ++ [0xE0, 0x90, 0xE0, 0x90, 0xE0] ++
  [0xF0, 0x80, 0x80, 0x80, 0xF0] ++ [0xE0, 0x90, 0x90, 0x90, 0xE0] ++
  [0xF0, 0x80, 0xF0, 0x80, 0xF0] ++ [0xF0, 0x80, 0xF0, 0x80, 0x80]

/-- The default of the parameter `FONT[0..79]` (R71, D7). PRESUMED. Log entry 3. -/
def defaultFont : Vector Byte 80 := ⟨(glyphsLow ++ glyphsHigh).toArray, by rfl⟩

/-- The default of the parameter `KEYWAIT_RELEASE_MATCH` (R210, D21, 90_conflicts.md C3). Log entry 19. -/
def defaultReleaseMatch : ReleaseMatch := .sameKey

/-- `PC` at reset, the entry point (R39, stated by the source). -/
def resetPc : Word := 0x200

/-- `V0..VF` at reset (R39). DESIGN CHOICE: decision D2. Log entry 1. -/
def resetV : Vector Byte 16 := Vector.replicate 16 0

/-- `I` at reset (R39). DESIGN CHOICE: decision D3. Log entry 1. -/
def resetI : Word := 0

/-- `SP` at reset (R39). DESIGN CHOICE: decision D4. Log entry 1. -/
def resetSp : Byte := 0

/-- `DT` at reset (R39). DESIGN CHOICE: decision D5. Log entry 1. -/
def resetDt : Byte := 0

/-- `ST` at reset (R39). DESIGN CHOICE: decision D5. Log entry 1. -/
def resetSt : Byte := 0

/-- The call-stack slots at reset (R39); never observable. DESIGN CHOICE: decision D29. Log entry 1. -/
def resetStk : Vector Word 16 := Vector.replicate 16 0

/-- A memory byte outside the font at reset (R39, R70). DESIGN CHOICE: decision D6. Log entry 2. -/
def resetByte : Byte := 0

/-- The pixel grid at reset (R39). DESIGN CHOICE: decision D8. Log entry 4. -/
def resetGfx : Vector (Vector Bool 64) 32 := Vector.replicate 32 (Vector.replicate 64 false)

/-- The key vector presented when the machine starts; an input, to which the spec gives no value. DESIGN CHOICE.
Log entry 23. -/
def initialKeys : Vector Bool 16 := Vector.replicate 16 false

/-- FREE VALUE. The random byte presented when the machine starts; an input, to which the spec gives no value.
Log entry 21. -/
def initialRand : Byte := Config.randByte 0

end Sys2Proof.Machine
end

