-- ==== Sys2Proof/Machine/State.lean ====
section
/-!
DEFINITION. The state of chip8_cpu_core as plain data (10_state.md), the reasons a step can stop, and the state
after reset (R39).
-/

namespace Sys2Proof.Machine

/-- The key-wait latch `KW` (R35). -/
inductive KeyWait where
  | idle
  | keyLatched (k : Key)
  deriving DecidableEq, Repr

/-- The kind of a memory access, part of a `MemoryBoundsError` (20_memory.md R62, R63; R250). -/
inductive AccessKind where
  | fetch
  | read
  | write
  deriving DecidableEq, Repr

/-- The six causes of a fatal condition (60_exceptions.md R250). -/
inductive Cause where
  | decodeError
  | memoryBoundsError (kind : AccessKind)
  | stackOverflow
  | stackUnderflow
  | addressOverflow
  | keyIndexRange
  deriving DecidableEq, Repr

/-- The fault record (R36, R250): the cause, the opcode at fault (0 for a fetch), the address field (17 bits; its
meaning depends on the cause) and `PC` when the condition was raised. -/
structure FaultRecord where
  cause  : Cause
  opcode : Word
  addr   : BitVec 17
  pc     : Word
  deriving DecidableEq, Repr

/-- Main memory `MEM` (R30, R60): the font it was initialised with, which is a parameter of the run (R71), and the
cells whose byte differs from the reset contents, addresses strictly rising. -/
structure Memory where
  font  : Vector Byte 80
  cells : List Host.Cell
  deriving DecidableEq, Repr

/-- The pixel grid `GFX` (R32): 32 rows of 64 cells, row-major. -/
abbrev Grid := Vector (Vector Bool 64) 32

/-- The level inputs as the host presents them now (R33, R34, R37). The engine only reads them. -/
structure Ports where
  keys    : Vector Bool 16
  keyDown : Option Key
  keyUp   : Option Key
  rand    : Byte
  deriving DecidableEq, Repr

/-- The events that act on the state, each one indivisible transition (00_scope.md R6, 70_reset_and_hazards.md R295,
R296). -/
inductive Event where
  /-- The engine performs one execution step (R120). -/
  | step
  /-- The timer decrements `DT` and `ST` (R203). -/
  | timerTick
  /-- The host raises `reset` (R290). -/
  | reset
  /-- The host performs the load operation (R77). -/
  | load (rom : List Byte)
  /-- The host changes the levels it presents (R296). -/
  | drive (p : Ports)
  deriving DecidableEq, Repr

/-- The state of the machine. -/
structure State where
  /-- `V[0..15]` (R20). -/
  v            : Vector Byte 16
  /-- `I` (R22). -/
  i            : Word
  /-- `PC` (R23). -/
  pc           : Word
  /-- `SP`, advisory (R25). -/
  sp           : Byte
  /-- `DT` (R26). -/
  dt           : Byte
  /-- `ST` (R27). -/
  st           : Byte
  /-- `STK[0..15]` (R28). -/
  stk          : Vector Word 16
  /-- `TOP`, `0 <= top <= 16` (R28). -/
  top          : Fin 17
  /-- `MEM` (R30). -/
  mem          : Memory
  /-- `LSZ`, `0..4096` (R31). -/
  lsz          : Fin 4097
  /-- `GFX` (R32). -/
  gfx          : Grid
  /-- `KW` (R35). -/
  kw           : KeyWait
  /-- `FLT` (R36). -/
  flt          : Option FaultRecord
  /-- The inputs now presented (R33, R34, R37). -/
  ports        : Ports
  /-- The parameter `KEYWAIT_RELEASE_MATCH` of this run (R5, R210). -/
  releaseMatch : ReleaseMatch
  /-- The model's own: the events still to come, oldest first (R7, R40). When it is empty the next event is `step`.
  Log entry 22. -/
  agenda       : List Event
  /-- The model's own: how many random bytes the host's source has presented; it numbers the free values. Log
  entry 21. -/
  draws        : Nat
  deriving DecidableEq, Repr

/-- Why the machine has no next state. The spec's own fatal conditions are no such reason: each is a next state with
`FLT` written (R126, R127). -/
inductive Fault where
  /-- Raised by a `load` event when something is already loaded or the core is faulted, that is after the first load or
  after the first step: "not an operation of this hardware", "a model gives it no transition" (R77). Safe: the model
  says nothing of such a launch. No instruction raises it. -/
  | loadHasNoTransition
  deriving DecidableEq, Repr

/-- Why an instruction has no meaning. -/
inductive Refusal where
  /-- Raised by an arm of `exec` whose instruction has no meaning yet; no arm does. Safe. -/
  | notModelled (mnemonic : String)
  deriving DecidableEq, Repr

/-- Main memory right after reset: the font and zeros, so nothing is listed (R39, R70). -/
def Memory.initial (font : Vector Byte 80) : Memory := { font := font, cells := [] }

/-- The levels presented when the machine starts. DESIGN CHOICE: the spec gives inputs no reset value (R39).
Log entry 23. -/
def Ports.initial : Ports :=
  { keys := initialKeys, keyDown := none, keyUp := none, rand := initialRand }

/-- The state right after reset and before the load operation (R39, R290). -/
def State.reset : State :=
  { v := resetV, i := resetI, pc := resetPc, sp := resetSp, dt := resetDt, st := resetSt
    stk := resetStk, top := 0, mem := Memory.initial defaultFont, lsz := 0, gfx := resetGfx
    kw := .idle, flt := none, ports := Ports.initial, releaseMatch := defaultReleaseMatch
    agenda := [], draws := 1 }

end Sys2Proof.Machine
end

