-- ==== Sys2Proof/Machine/Ops.lean ====
section
/-!
DEFINITION. The named operations over the state: registers, main memory with its bounds check, the call stack, the
pixel grid, taking a fatal condition, and leaving it by reset.
-/

namespace Sys2Proof.Machine

/-! ### Registers (10_state.md R20 to R27, R35) -/

/-- Read a general register (R10, R20). -/
def State.getV (s : State) (x : Reg) : Byte := s.v[x]

/-- Write a general register (R10, R20). No register is hard-wired. -/
def State.setV (s : State) (x : Reg) (b : Byte) : State := { s with v := s.v.set x b }

/-- Write the address register (R22). -/
def State.setI (s : State) (w : Word) : State := { s with i := w }

/-- Write the program counter (R23). -/
def State.setPc (s : State) (w : Word) : State := { s with pc := w }

/-- Write the advisory stack pointer (R25). -/
def State.setSp (s : State) (b : Byte) : State := { s with sp := b }

/-- Write the delay timer (R26). -/
def State.setDt (s : State) (b : Byte) : State := { s with dt := b }

/-- Write the sound timer (R27). -/
def State.setSt (s : State) (b : Byte) : State := { s with st := b }

/-- Write the key-wait latch (R35). -/
def State.setKw (s : State) (k : KeyWait) : State := { s with kw := k }

/-- Write the pixel grid (R32). -/
def State.setGfx (s : State) (g : Grid) : State := { s with gfx := g }

/-- Replace the contents of main memory (R30). -/
def State.setMem (s : State) (m : Memory) : State := { s with mem := m }

/-! ### Main memory (20_memory.md) -/

/-- What an address that no cell lists reads as: the reset contents, the font at `0x50..0x9F` and zero elsewhere
(R39, R70, R71). Log entries 2 and 3. -/
def Memory.background (m : Memory) (a : Nat) : Byte :=
  if h : 0x50 ≤ a ∧ a < 0xA0 then m.font[a - 0x50] else resetByte

/-- The byte a list of cells gives for an address, if it lists it. -/
def lookupCell : List Host.Cell → Nat → Option Byte
  | [], _ => none
  | c :: cs, a => if c.1 = a then some c.2 else lookupCell cs a

/-- The byte of main memory at an address (R62). -/
def Memory.read (m : Memory) (a : Nat) : Byte :=
  match lookupCell m.cells a with
  | some b => b
  | none => m.background a

/-- List a byte for an address, keeping addresses strictly rising. -/
def insertCell (a : Nat) (b : Byte) : List Host.Cell → List Host.Cell
  | [] => [(a, b)]
  | c :: cs =>
    if a < c.1 then (a, b) :: c :: cs
    else if c.1 = a then (a, b) :: cs
    else c :: insertCell a b cs

/-- List no byte for an address. -/
def eraseCell (a : Nat) : List Host.Cell → List Host.Cell
  | [] => []
  | c :: cs => if c.1 = a then eraseCell a cs else c :: eraseCell a cs

/-- Write one byte of main memory (R63), keeping the canonical form: writing what an unlisted address reads as lists
nothing. -/
def Memory.write (m : Memory) (a : Nat) (b : Byte) : Memory :=
  if b = m.background a then { m with cells := eraseCell a m.cells }
  else { m with cells := insertCell a b m.cells }

/-- Write consecutive bytes at ascending addresses. -/
def Memory.writeBytes (m : Memory) (a : Nat) : List Byte → Memory
  | [] => m
  | b :: bs => (m.write a b).writeBytes (a + 1) bs

/-- The addresses of a list of cells rise strictly from above `lo`. -/
def cellsRise (lo : Nat) : List Host.Cell → Bool
  | [] => true
  | c :: cs => decide (lo ≤ c.1) && cellsRise (c.1 + 1) cs

/-- The canonical form of main memory: addresses strictly rising, each inside the 4096-byte array (R30), and no cell
equal to what an unlisted address reads as. -/
def Memory.wf (m : Memory) : Bool :=
  cellsRise 0 m.cells && m.cells.all fun c => decide (c.1 < 4096) && c.2 != m.background c.1

/-- An address is valid exactly when it is below `LSZ` (R61). Addresses are unbounded integers (R76). -/
def State.valid (s : State) (a : Nat) : Bool := a < s.lsz.val

/-- `MemRead(a, 1)` (R62): `none` when the address is out of bounds. A read changes no state. -/
def State.memRead (s : State) (a : Nat) : Option Byte :=
  if s.valid a then some (s.mem.read a) else none

/-- `MemWrite(a, 1, b)` (R63): `none` when the address is out of bounds; nothing is then written. -/
def State.memWrite (s : State) (a : Nat) (b : Byte) : Option State :=
  if s.valid a then some (s.setMem (s.mem.write a b)) else none

/-! ### The call stack (10_state.md R28) -/

/-- `Push(w)` (R28): `none` when the stack is full. -/
def State.push (s : State) (w : Word) : Option State :=
  if h : s.top.val < 16 then
    some { s with stk := s.stk.set s.top.val w, top := ⟨s.top.val + 1, by omega⟩ }
  else none

/-- `Pop()` (R28): `none` when the stack is empty; the popped slot keeps its content (decision D29). -/
def State.pop (s : State) : Option (Word × State) :=
  if h : 0 < s.top.val then
    some (s.stk[s.top.val - 1], { s with top := ⟨s.top.val - 1, by omega⟩ })
  else none

/-! ### The pixel grid (10_state.md R32, 20_memory.md R78) -/

/-- The cell at column `x` and row `y`; no cell outside the grid is set. -/
def pixelAt (g : Grid) (x y : Nat) : Bool :=
  if h : x < 64 ∧ y < 32 then (g[y]'h.2)[x]'h.1 else false

/-- Invert the cell at column `x` and row `y`; outside the grid nothing changes (R223). -/
def flipPixel (g : Grid) (x y : Nat) : Grid :=
  if h : x < 64 ∧ y < 32 then g.set y ((g[y]'h.2).set x (!(g[y]'h.2)[x]'h.1) h.1) h.2 else g

/-- The grid with every cell `false` (R220). -/
def clearGrid : Grid := Vector.replicate 32 (Vector.replicate 64 false)

/-! ### Taking a fatal condition, and leaving it (40_engine_step.md R126, R127; 60_exceptions.md R250, R259, R261) -/

/-- `raise <Cause>(info)` (R126, R259): the fault record is written and nothing else changes. The `pc` field is `PC` as
it is when the condition is raised (R250). There is no handler: control goes nowhere. -/
def State.raise (s : State) (cause : Cause) (opcode : Word) (addr : Nat) : State :=
  { s with flt := some { cause := cause, opcode := opcode, addr := BitVec.ofNat 17 addr, pc := s.pc } }

/-- The `addr` field of a `DecodeError`: the sub-kind (R250). -/
def illegalCode : IllegalOpcode → Nat
  | .unknownOpcode => 0
  | .unknownOperation => 1
  | .malformedOpcode => 2

/-- The numeric code of a cause (R250). -/
def Cause.code : Cause → Nat
  | .decodeError => 1
  | .memoryBoundsError _ => 2
  | .stackOverflow => 3
  | .stackUnderflow => 4
  | .addressOverflow => 5
  | .keyIndexRange => 6

/-- No instruction returns from a fatal condition (R261); the only way out is `reset`, which gives every piece of the
spec's state its reset value (R290) and clears `FLT`. What is not state but a parameter or an input of the run (the
font, the release policy, the presented levels, the events to come) is kept (R40). Log entry 24. -/
def State.afterReset (s : State) : State :=
  { State.reset with
    mem := Memory.initial s.mem.font, releaseMatch := s.releaseMatch
    ports := s.ports, agenda := s.agenda, draws := s.draws }

end Sys2Proof.Machine
end

