-- ==== Sys2Proof/Machine/Operands.lean ====
section
/-!
DEFINITION. The operand forms: how the fields of an instruction name values, addresses and targets
(30_encoding.md R93, 43_memory_address.md R186, 41_control_flow.md).
-/

namespace Sys2Proof.Machine

/-- A 12-bit immediate zero-extended to 16 bits (R93, R140, R180). -/
def zext16 (nnn : BitVec 12) : Word := nnn.setWidth 16

/-- The one data addressing mode: `I + k` as an unbounded integer, never wrapped (R186, R76). -/
def State.dataAddress (s : State) (k : Nat) : Nat := s.i.toNat + k

/-- The registers `V0..Vx` of a block transfer, ascending (R184, R185). -/
def regsUpTo (x : Reg) : List Reg := (List.finRange 16).take (x.val + 1)

/-- The contents of `V0..Vx`, ascending (R184). -/
def State.bytesUpTo (s : State) (x : Reg) : List Byte := (regsUpTo x).map s.getV

/-- The target of `Bnnn`: `nnn + V0`, not masked to 12 bits (R141). -/
def State.offsetTarget (s : State) (nnn : BitVec 12) : Word :=
  BitVec.ofNat 16 (nnn.toNat + (s.getV reg0).toNat)

/-- The glyph address of `Fx29`: `Vx * 5 + 0x50` in 16 bits, `Vx` whole (R182). -/
def glyphAddress (b : Byte) : Word := BitVec.ofNat 16 (b.toNat * 5 + 0x50)

/-- The decimal digits of a byte, hundreds first (R183). -/
def bcdDigits (b : Byte) : List Byte :=
  [BitVec.ofNat 8 (b.toNat / 100), BitVec.ofNat 8 (b.toNat / 10 % 10), BitVec.ofNat 8 (b.toNat % 10)]

/-- A key number as a register value, zero-extended (R204). -/
def keyByte (k : Key) : Byte := BitVec.ofNat 8 k.val

/-- A further advance of `PC` by 2 when the condition of a skip holds (R144, R103). -/
def State.skipIf (s : State) (c : Bool) : State := if c then s.setPc (s.pc + 2) else s

/-- The rewind of `Fx0A`: `PC` goes back to the instruction's own address (R204). -/
def State.rewind (s : State) : State := s.setPc (s.pc - 2)

end Sys2Proof.Machine
end

