-- ==== Sys2Proof/Machine/Flags.lean ====
section
/-!
DEFINITION. The flag computations. `VF` is the only flag (10_state.md R21); six instructions write it, each of them
0 or 1 every time it completes.
-/

namespace Sys2Proof.Machine

/-- A flag as the byte written to `VF`. -/
def flagByte (c : Bool) : Byte := if c then 1 else 0

/-- The carry of `8xy4`: 1 exactly when the mathematical sum exceeds 255 (42_alu.md R166, R172). -/
def carryOut (a b : Byte) : Byte := flagByte (decide (255 < a.toNat + b.toNat))

/-- The flag of a subtraction `a - b`: 1 exactly when `a > b`, strictly, so 0 at equality (R167, R169, R172;
90_conflicts.md C2, decision D27). Log entry 14. -/
def strictlyGreater (a b : Byte) : Byte := flagByte (decide (b.toNat < a.toNat))

/-- The bit shifted out by `8xy6`: the original bit 0 (R168). -/
def shiftedOutRight (a : Byte) : Byte := flagByte (a.getLsbD 0)

/-- The bit shifted out by `8xyE`: the original bit 7 (R170). -/
def shiftedOutLeft (a : Byte) : Byte := flagByte (a.getLsbD 7)

/-- Write a result and then the flag: with `x = F` both land on `V[15]` and the flag wins (R171, decision D15).
Log entry 13. -/
def State.setResultAndFlag (s : State) (x : Reg) (result flag : Byte) : State :=
  (s.setV x result).setV regF flag

end Sys2Proof.Machine
end

