-- ==== Sys2Proof/Machine/Alu.lean ====
section
/-!
DEFINITION. The register and ALU instructions (42_alu.md). Operands are read first, the result is written, and then,
for the five flag-defining selectors, the flag (R171).
-/

namespace Sys2Proof.Machine

/-- `6xnn`: `Vx <- nn` (R160). -/
def execLdVxNn (x : Reg) (nn : Byte) (s : State) : Host.Outcome State Fault Refusal :=
  .next (s.setV x nn)

/-- `7xnn`: `Vx <- (Vx + nn) mod 256`, no flag (R161). -/
def execAddVxNn (x : Reg) (nn : Byte) (s : State) : Host.Outcome State Fault Refusal :=
  .next (s.setV x (s.getV x + nn))

/-- `8xy0`: `Vx <- Vy` (R162). -/
def execLdVxVy (x y : Reg) (s : State) : Host.Outcome State Fault Refusal :=
  .next (s.setV x (s.getV y))

/-- `8xy1`: bitwise OR, `VF` not written as a flag (R163). -/
def execOrVxVy (x y : Reg) (s : State) : Host.Outcome State Fault Refusal :=
  .next (s.setV x (s.getV x ||| s.getV y))

/-- `8xy2`: bitwise AND (R164). -/
def execAndVxVy (x y : Reg) (s : State) : Host.Outcome State Fault Refusal :=
  .next (s.setV x (s.getV x &&& s.getV y))

/-- `8xy3`: bitwise exclusive OR (R165). -/
def execXorVxVy (x y : Reg) (s : State) : Host.Outcome State Fault Refusal :=
  .next (s.setV x (s.getV x ^^^ s.getV y))

/-- `8xy4`: sum modulo 256, `VF` the carry (R166). -/
def execAddVxVy (x y : Reg) (s : State) : Host.Outcome State Fault Refusal :=
  .next (s.setResultAndFlag x (s.getV x + s.getV y) (carryOut (s.getV x) (s.getV y)))

/-- `8xy5`: `Vx - Vy` modulo 256, `VF` 1 exactly when `Vx > Vy` (R167). -/
def execSubVxVy (x y : Reg) (s : State) : Host.Outcome State Fault Refusal :=
  .next (s.setResultAndFlag x (s.getV x - s.getV y) (strictlyGreater (s.getV x) (s.getV y)))

/-- `8xy6`: `Vx` shifted right by one, `VF` the original bit 0; `Vy` is neither read nor written (R168). -/
def execShrVx (x : Reg) (s : State) : Host.Outcome State Fault Refusal :=
  .next (s.setResultAndFlag x (s.getV x >>> 1) (shiftedOutRight (s.getV x)))

/-- `8xy7`: `Vy - Vx` modulo 256 into `Vx`, `VF` 1 exactly when `Vy > Vx` (R169). -/
def execSubnVxVy (x y : Reg) (s : State) : Host.Outcome State Fault Refusal :=
  .next (s.setResultAndFlag x (s.getV y - s.getV x) (strictlyGreater (s.getV y) (s.getV x)))

/-- `8xyE`: `Vx` shifted left by one modulo 256, `VF` the original bit 7; `Vy` is neither read nor written (R170). -/
def execShlVx (x : Reg) (s : State) : Host.Outcome State Fault Refusal :=
  .next (s.setResultAndFlag x (s.getV x <<< 1) (shiftedOutLeft (s.getV x)))

end Sys2Proof.Machine
end

