-- ==== Sys2Proof/Machine/ControlFlow.lean ====
section
/-!
DEFINITION. The control-flow instructions (41_control_flow.md). Every meaning starts from the state in which `PC` is
already the instruction's address plus 2 (00_scope.md R11, 40_engine_step.md R122).
-/

namespace Sys2Proof.Machine

/-- `1nnn`: `PC <- nnn` (R140). -/
def execJpNnn (nnn : BitVec 12) (s : State) : Host.Outcome State Fault Refusal :=
  .next (s.setPc (zext16 nnn))

/-- `Bnnn`: `PC <- nnn + V0`, not masked (R141). -/
def execJpV0Nnn (nnn : BitVec 12) (s : State) : Host.Outcome State Fault Refusal :=
  .next (s.setPc (s.offsetTarget nnn))

/-- `2nnn`: push the advanced `PC`, count it in `SP`, jump; `StackOverflow` when the stack is full, with nothing else
changed (R142). -/
def execCallNnn (nnn : BitVec 12) (s : State) : Host.Outcome State Fault Refusal :=
  match s.push s.pc with
  | some t => .next ((t.setSp (t.sp + 1)).setPc (zext16 nnn))
  | none => .next (s.raise .stackOverflow (encode (.callNnn nnn)) s.pc.toNat)

/-- `00EE`: pop into `PC`, count it in `SP`; `StackUnderflow` when the stack is empty (R143). -/
def execRet (s : State) : Host.Outcome State Fault Refusal :=
  match s.pop with
  | some (w, t) => .next ((t.setPc w).setSp (t.sp - 1))
  | none => .next (s.raise .stackUnderflow (encode .ret) 0)

/-- `3xnn`: skip if `Vx = nn` (R144). -/
def execSeVxNn (x : Reg) (nn : Byte) (s : State) : Host.Outcome State Fault Refusal :=
  .next (s.skipIf (s.getV x == nn))

/-- `4xnn`: skip if `Vx != nn` (R145). -/
def execSneVxNn (x : Reg) (nn : Byte) (s : State) : Host.Outcome State Fault Refusal :=
  .next (s.skipIf (s.getV x != nn))

/-- `5xy0`: skip if `Vx = Vy` (R146). -/
def execSeVxVy (x y : Reg) (s : State) : Host.Outcome State Fault Refusal :=
  .next (s.skipIf (s.getV x == s.getV y))

/-- `9xy0`: skip if `Vx != Vy` (R147). -/
def execSneVxVy (x y : Reg) (s : State) : Host.Outcome State Fault Refusal :=
  .next (s.skipIf (s.getV x != s.getV y))

end Sys2Proof.Machine
end

