-- ==== Sys2Proof/Machine/Draw.lean ====
section
/-!
DEFINITION. The drawing instructions (45_draw.md).
-/

namespace Sys2Proof.Machine

/-- `00E0`: every cell `false`; `VF` is not written (R220). -/
def execCls (s : State) : Host.Outcome State Fault Refusal :=
  .next (s.setGfx clearGrid)

/-- The last `k` bits of a sprite row byte composited on grid row `yy`, left to right: bit `7 - c` goes to column
`x0 + c` (R222), a column beyond 63 ends the row (R223), a set bit inverts its cell and hits when the cell was set
(R224). The grid and the hit so far go in and come out. -/
def compositeBits (row : Byte) (x0 yy : Nat) : Nat → Grid × Bool → Grid × Bool
  | 0, gh => gh
  | k + 1, gh =>
    if x0 + (7 - k) > 63 then gh
    else if row.getLsbD k then
      compositeBits row x0 yy k
        (flipPixel gh.1 (x0 + (7 - k)) yy, gh.2 || pixelAt gh.1 (x0 + (7 - k)) yy)
    else compositeBits row x0 yy k gh

/-- The remaining `k` sprite rows, the next at address `a` on grid row `yy`: a row below the grid ends the sprite and
is not read (R223, R225); a row address out of bounds raises `MemoryBoundsError` with kind read, the rows before it
staying and `VF` not written (R226); after the last row `VF` is the collision (R221). -/
def drawRows (opcode : Word) (x0 : Nat) : Nat → Nat → Nat → Bool → State → State
  | 0, _, _, hit, s => s.setV regF (flagByte hit)
  | k + 1, yy, a, hit, s =>
    if yy > 31 then s.setV regF (flagByte hit)
    else
      match s.memRead a with
      | none => s.raise (.memoryBoundsError .read) opcode a
      | some row =>
        drawRows opcode x0 k (yy + 1) (a + 1) (compositeBits row x0 yy 8 (s.gfx, hit)).2
          (s.setGfx (compositeBits row x0 yy 8 (s.gfx, hit)).1)

/-- `Dxyn`: draw the `n`-row sprite at `I` by exclusive OR at `(Vx mod 64, Vy mod 32)`, `VF` the collision (R221). -/
def execDrwVxVyN (x y : Reg) (n : BitVec 4) (s : State) : Host.Outcome State Fault Refusal :=
  .next (drawRows (encode (.drwVxVyN x y n)) ((s.getV x).toNat % 64) n.toNat ((s.getV y).toNat % 32)
    (s.dataAddress 0) false s)

end Sys2Proof.Machine
end

