-- ==== Sys2Proof/Machine/MemoryAddress.lean ====
section
/-!
DEFINITION. The memory and address-register instructions (43_memory_address.md). The multi-byte instructions access
one byte at a time at ascending addresses, each with its own bounds check; what was done before a fault stays done
(R187, decision D14). Log entry 10.
-/

namespace Sys2Proof.Machine

/-- `Annn`: `I <- nnn` (R180). -/
def execLdINnn (nnn : BitVec 12) (s : State) : Host.Outcome State Fault Refusal :=
  .next (s.setI (zext16 nnn))

/-- `Fx1E`: `I <- I + Vx`, no flag; `AddressOverflow` with `I` unchanged when the sum exceeds 16 bits (R181,
decision D11). Log entry 8. -/
def execAddIVx (x : Reg) (s : State) : Host.Outcome State Fault Refusal :=
  if s.i.toNat + (s.getV x).toNat > 0xFFFF then
    .next (s.raise .addressOverflow (encode (.addIVx x)) (s.i.toNat + (s.getV x).toNat))
  else .next (s.setI (BitVec.ofNat 16 (s.i.toNat + (s.getV x).toNat)))

/-- `Fx29`: `I <- Vx * 5 + 0x50` (R182). -/
def execLdFVx (x : Reg) (s : State) : Host.Outcome State Fault Refusal :=
  .next (s.setI (glyphAddress (s.getV x)))

/-- Store bytes at ascending addresses from `a`, one `MemWrite` each; the first address out of bounds raises
`MemoryBoundsError` with kind write (R183, R184, R187). -/
def storeBytes (opcode : Word) (s : State) (a : Nat) : List Byte → State
  | [] => s
  | b :: bs =>
    match s.memWrite a b with
    | some t => storeBytes opcode t (a + 1) bs
    | none => s.raise (.memoryBoundsError .write) opcode a

/-- Load registers from ascending addresses from `a`, one `MemRead` each; the first address out of bounds raises
`MemoryBoundsError` with kind read (R185, R187). -/
def loadRegs (opcode : Word) (s : State) (a : Nat) : List Reg → State
  | [] => s
  | x :: xs =>
    match s.memRead a with
    | some b => loadRegs opcode (s.setV x b) (a + 1) xs
    | none => s.raise (.memoryBoundsError .read) opcode a

/-- `Fx33`: the decimal digits of `Vx` to `I`, `I+1`, `I+2` (R183). -/
def execLdBVx (x : Reg) (s : State) : Host.Outcome State Fault Refusal :=
  .next (storeBytes (encode (.ldBVx x)) s (s.dataAddress 0) (bcdDigits (s.getV x)))

/-- `Fx55`: store `V0..Vx` from `I` on; `I` is unchanged (R184). -/
def execLdMiVx (x : Reg) (s : State) : Host.Outcome State Fault Refusal :=
  .next (storeBytes (encode (.ldMiVx x)) s (s.dataAddress 0) (s.bytesUpTo x))

/-- `Fx65`: load `V0..Vx` from `I` on; `I` is unchanged (R185). -/
def execLdVxMi (x : Reg) (s : State) : Host.Outcome State Fault Refusal :=
  .next (loadRegs (encode (.ldVxMi x)) s (s.dataAddress 0) (regsUpTo x))

end Sys2Proof.Machine
end

