-- ==== Sys2Proof/Machine/Random.lean ====
section
/-!
DEFINITION. The random instruction (46_random.md).
-/

namespace Sys2Proof.Machine

/-- Sample the random byte: the level presented now is used, and the source then presents a fresh byte, a free value
under no law (R241, decision D25). Log entry 21. -/
def State.sampleRand (s : State) : State :=
  { s with ports := { s.ports with rand := Config.randByte s.draws }, draws := s.draws + 1 }

/-- `Cxnn`: `Vx <- rand & nn`; `VF` is not written as a flag (R240). -/
def execRndVxNn (x : Reg) (nn : Byte) (s : State) : Host.Outcome State Fault Refusal :=
  .next ((s.setV x (s.ports.rand &&& nn)).sampleRand)

end Sys2Proof.Machine
end

