-- ==== Sys2Proof/Machine/TimerKey.lean ====
section
/-!
DEFINITION. The timer and key instructions (44_timer_key.md).
-/

namespace Sys2Proof.Machine

/-- `Fx07`: `Vx <- DT` (R200). -/
def execLdVxDt (x : Reg) (s : State) : Host.Outcome State Fault Refusal :=
  .next (s.setV x s.dt)

/-- `Fx15`: `DT <- Vx` (R201). -/
def execLdDtVx (x : Reg) (s : State) : Host.Outcome State Fault Refusal :=
  .next (s.setDt (s.getV x))

/-- `Fx18`: `ST <- Vx` (R202). -/
def execLdStVx (x : Reg) (s : State) : Host.Outcome State Fault Refusal :=
  .next (s.setSt (s.getV x))

/-- The key that phase 2 of `Fx0A` commits, if this poll ends the wait: `k` is the latched key and the last argument
the key-up cell (R204, R210). -/
def committedKey (policy : ReleaseMatch) (k : Key) : Option Key → Option Key
  | none => none
  | some j =>
    match policy with
    | .sameKey => if j = k then some k else none
    | .anyKeyCommitReleased => some j
    | .anyKeyCommitLatched => some k

/-- `Fx0A`, one poll (R204, R205). Phase 1 reads the key-down cell only and rewinds; phase 2 reads the key-up cell
only, and either commits and lets `PC` stand or rewinds. -/
def execLdVxK (x : Reg) (s : State) : Host.Outcome State Fault Refusal :=
  match s.kw with
  | .idle =>
    match s.ports.keyDown with
    | some k => .next (s.setKw (.keyLatched k)).rewind
    | none => .next s.rewind
  | .keyLatched k =>
    match committedKey s.releaseMatch k s.ports.keyUp with
    | some c => .next ((s.setV x (keyByte c)).setKw .idle)
    | none => .next s.rewind

/-- The state of the key numbered by a byte, as the key vector presents it; `none` above 15 (R33, R206). -/
def State.keyPressed (s : State) (b : Byte) : Option Bool :=
  if h : b.toNat < 16 then some s.ports.keys[b.toNat] else none

/-- `Ex9E`: skip if the key numbered `Vx` is pressed; `KeyIndexRange` when `Vx > 15` (R206, decision D19).
Log entry 9. -/
def execSkpVx (x : Reg) (s : State) : Host.Outcome State Fault Refusal :=
  match s.keyPressed (s.getV x) with
  | some p => .next (s.skipIf p)
  | none => .next (s.raise .keyIndexRange (encode (.skpVx x)) (s.getV x).toNat)

/-- `ExA1`: skip if the key numbered `Vx` is not pressed; `KeyIndexRange` when `Vx > 15` (R207, decision D19). -/
def execSknpVx (x : Reg) (s : State) : Host.Outcome State Fault Refusal :=
  match s.keyPressed (s.getV x) with
  | some p => .next (s.skipIf !p)
  | none => .next (s.raise .keyIndexRange (encode (.sknpVx x)) (s.getV x).toNat)

end Sys2Proof.Machine
end

