-- ==== Sys2Proof/Machine/Events.lean ====
section
/-!
DEFINITION. The events of the machine (00_scope.md R6): the execution step with its fetch, advance, decode and dispatch
(40_engine_step.md), the timer tick (44_timer_key.md R203), and what the host does (20_memory.md R77,
70_reset_and_hazards.md R290, R296).
-/

namespace Sys2Proof.Machine

/-- The fetch (R121): the bytes at `PC` and `PC + 1`, in that order, the first being the high byte (R64). An address out
of bounds is reported as the address at fault. `PC + 1` is not wrapped (R76). -/
def State.fetch (s : State) : Except Nat Word :=
  match s.memRead s.pc.toNat with
  | none => .error s.pc.toNat
  | some hi =>
    match s.memRead (s.pc.toNat + 1) with
    | none => .error (s.pc.toNat + 1)
    | some lo => .ok (opcodeOf hi lo)

/-- The advance of `PC` by 2, after the fetch and before the dispatch (R122). -/
def State.advance (s : State) : State := s.setPc (s.pc + 2)

/-- One execution step (R120): nothing while a fault is recorded (R127); a fetch out of bounds raises
`MemoryBoundsError` with `PC` not advanced and opcode 0 (R121, R250); an illegal opcode raises `DecodeError` after the
advance (R100, R251); otherwise the instruction runs from the advanced state. -/
def engineStep (s : State) : Host.Outcome State Fault Refusal :=
  match s.flt with
  | some _ => .next s
  | none =>
    match s.fetch with
    | .error a => .next (s.raise (.memoryBoundsError .fetch) 0 a)
    | .ok op =>
      match decode op with
      | .error e => .next (s.advance.raise .decodeError op (illegalCode e))
      | .ok i => exec i s.advance

/-- A timer after one tick: toward zero, never below (R203). -/
def tickDown (b : Byte) : Byte := if b = 0 then 0 else b - 1

/-- `timer_tick` (R203): nothing while a fault is recorded (R127); otherwise both timers count down independently. -/
def timerTick (s : State) : State :=
  match s.flt with
  | some _ => s
  | none => (s.setDt (tickDown s.dt)).setSt (tickDown s.st)

/-- The load operation (R77): the ROM at `0x200` and `LSZ <- 0x200 + count`. An image over 3584 bytes is refused, memory
and `LSZ` staying as they were (decision D10). A second load, or one after the first step, has no transition: something is
then loaded, or the step without a load has faulted. Log entry 25. -/
def loadRom (rom : List Byte) (s : State) : Host.Outcome State Fault Refusal :=
  if s.lsz.val = 0 ∧ s.flt = none then
    if h : rom.length ≤ 3584 then
      .next { s.setMem (s.mem.writeBytes 0x200 rom) with lsz := ⟨0x200 + rom.length, by omega⟩ }
    else .next s
  else .fault .loadHasNoTransition

/-- The host changes the levels it presents (R296). -/
def drivePorts (p : Ports) (s : State) : State := { s with ports := p }

/-- One event, an indivisible transition (R6). -/
def perform (e : Event) (s : State) : Host.Outcome State Fault Refusal :=
  match e with
  | .step => engineStep s
  | .timerTick => .next (timerTick s)
  | .reset => .next s.afterReset
  | .load rom => loadRom rom s
  | .drive p => .next (drivePorts p s)

/-- The event that comes next and the state from which it acts: the oldest event of the agenda, and `step` when the
agenda is empty. Log entry 22. -/
def nextEvent (s : State) : Event × State :=
  match s.agenda with
  | [] => (.step, s)
  | e :: rest => (e, { s with agenda := rest })

/-- The address the next fetch starts at when an instruction is placed there: `PC`, or the entry point where two bytes
do not fit at `PC`. -/
def placementPc (s : State) : Word := if s.pc.toNat + 2 ≤ 4096 then s.pc else resetPc

/-- `LSZ` raised, if need be, so that the two bytes at `a` are valid (R61). -/
def placementLsz (s : State) (a : Nat) : Fin 4097 :=
  if h : s.lsz.val < a + 2 ∧ a + 2 ≤ 4096 then ⟨a + 2, by omega⟩ else s.lsz

/-- `s` with an instruction word placed where the next step fetches: its bytes at `PC`, `LSZ` covering them, no fault
recorded, and a step as the next event. It stands for the load of a program. Log entry 25. -/
def placeWord (s : State) (op : Word) : State :=
  { s with
    pc := placementPc s
    mem := s.mem.writeBytes (placementPc s).toNat (bytesOf op)
    lsz := placementLsz s (placementPc s).toNat
    flt := none
    agenda := [] }

end Sys2Proof.Machine
end

