-- ==== Sys2Proof/Machine/Outputs.lean ====
section
/-!
DEFINITION. The output ports, read-only views of the state (70_reset_and_hazards.md R295). The ports, their names and
their bit numbering are the spec's decision D1, log entry 37.
-/

namespace Sys2Proof.Machine

/-- The cells of the grid in storage order, cell `(x, y)` being element `y*64 + x` (20_memory.md R78). -/
def gridCells (g : Grid) : List Bool := g.toList.flatMap Vector.toList

/-- `gfx_out`, 2048 bits as a number: bit `y*64 + x` is cell `(x, y)` (R78, R295). -/
def State.gfxOut (s : State) : BitVec 2048 := BitVec.ofNat 2048 (gridCells s.gfx |>.foldr Nat.bit 0)

/-- `dt_out` (R295). -/
def State.dtOut (s : State) : Byte := s.dt

/-- `st_out` (R295): the core exports the value of `ST`; when a tone sounds is outside (decision D30). -/
def State.stOut (s : State) : Byte := s.st

/-- `fault` (R295): the valid bit, and with it the cause code, the opcode, the address field and the pc of `FLT` (R250).
DESIGN CHOICE: the spec does not say what the four fields show while the valid bit is 0 (`FLT = None`), and the model
gives them no value then. Log entry 35. DESIGN CHOICE: the access kind that R250 joins to the address of a
`MemoryBoundsError` is in `FLT` and does not go out here, since R295 lists no such field. Log entry 36. -/
def State.faultOut (s : State) : Bool × Option (Nat × Word × BitVec 17 × Word) :=
  match s.flt with
  | none => (false, none)
  | some f => (true, some (f.cause.code, f.opcode, f.addr, f.pc))

end Sys2Proof.Machine
end

