-- ==== Sys2Proof/Safety.lean ====
section
/-!
DEFINITION. What counts as a safe state and what every reachable state satisfies, in the terms the claims use.
-/

namespace Sys2Proof.Machine

/-- A safe state: no fatal condition is recorded (10_state.md R36). A faulted state is for inspection only
(40_engine_step.md R126). -/
def State.Running (s : State) : Prop := s.flt = none

/-- The next event is an execution step: the agenda is empty, or a step stands first in it (log entry 22). In both cases
`agenda.tail` is the agenda that this event leaves. -/
def stepComesNext (agenda : List Event) : Prop := agenda = [] ∨ ∃ rest, agenda = .step :: rest

/-- The next transition is an execution step that fetches the word `op`: no fault is recorded, the next event is a step,
and the two bytes at `PC` are valid and are `op`, high byte first (40_engine_step.md R120, R121, 20_memory.md R64). -/
structure State.Fetches (s : State) (op : Word) : Prop where
  running : s.flt = none
  stepNext : stepComesNext s.agenda
  inBounds : s.pc.toNat + 1 < s.lsz.val
  high : s.mem.read s.pc.toNat = op.extractLsb' 8 8
  low : s.mem.read (s.pc.toNat + 1) = op.extractLsb' 0 8

/-- The invariant of every reachable state. Main memory has its canonical form. `SP` counts what `TOP` counts (10_state.md
R29). `PC` is at most `0x10FE`, and every live return address is at most `0x1000` (10_state.md R24, 41_control_flow.md
R143). A program is loaded behind `0x200` or not at all (10_state.md R31). -/
structure State.Inv (s : State) : Prop where
  memory : s.mem.wf = true
  advisory : s.sp.toNat = s.top.val
  pcBound : s.pc.toNat ≤ 0x10FE
  returns : ∀ j : Fin 16, j.val < s.top.val → s.stk[j].toNat ≤ 0x1000
  loaded : s.lsz.val = 0 ∨ 0x200 ≤ s.lsz.val

/-! ### Which instruction owns which piece of state (10_state.md, 60_exceptions.md R269) -/

/-- The instruction may write the general register `r`: its destinations (10_state.md R20) and, for the six
flag-defining instructions, `VF` (R21). -/
def writesRegister (i : Instr) (r : Reg) : Bool :=
  match i with
  | .ldVxNn x _ | .addVxNn x _ | .ldVxVy x _ | .orVxVy x _ | .andVxVy x _ | .xorVxVy x _ | .rndVxNn x _
  | .ldVxDt x | .ldVxK x => r == x
  | .addVxVy x _ | .subVxVy x _ | .shrVx x _ | .subnVxVy x _ | .shlVx x _ => r == x || r == regF
  | .drwVxVyN _ _ _ => r == regF
  | .ldVxMi x => decide (r.val ≤ x.val)
  | _ => false

/-- The six instructions that write `VF` as a flag (R21). -/
def definesFlag (i : Instr) : Bool :=
  match i with
  | .addVxVy _ _ | .subVxVy _ _ | .shrVx _ _ | .subnVxVy _ _ | .shlVx _ _ | .drwVxVyN _ _ _ => true
  | _ => false

/-- The instructions that write `I` (R22). -/
def writesI (i : Instr) : Bool :=
  match i with
  | .ldINnn _ | .addIVx _ | .ldFVx _ => true
  | _ => false

/-- The instructions that write `PC` again after the advance (R23). -/
def writesPc (i : Instr) : Bool :=
  match i with
  | .jpNnn _ | .jpV0Nnn _ | .callNnn _ | .ret | .seVxNn _ _ | .sneVxNn _ _ | .seVxVy _ _ | .sneVxVy _ _
  | .skpVx _ | .sknpVx _ | .ldVxK _ => true
  | _ => false

/-- The instructions that touch the call stack and `SP` (R25, R28). -/
def usesStack (i : Instr) : Bool :=
  match i with
  | .callNnn _ | .ret => true
  | _ => false

/-- The instructions that store to main memory (20_memory.md R67). -/
def storesMemory (i : Instr) : Bool :=
  match i with
  | .ldBVx _ | .ldMiVx _ => true
  | _ => false

/-- The instructions that write pixels (R32). -/
def writesPixels (i : Instr) : Bool :=
  match i with
  | .cls | .drwVxVyN _ _ _ => true
  | _ => false

/-- The instruction that writes the delay timer (R26). -/
def writesDelay (i : Instr) : Bool :=
  match i with
  | .ldDtVx _ => true
  | _ => false

/-- The instruction that writes the sound timer (R27). -/
def writesSound (i : Instr) : Bool :=
  match i with
  | .ldStVx _ => true
  | _ => false

/-- The instruction that reads or writes the key-wait latch (R35). -/
def usesKeyWait (i : Instr) : Bool :=
  match i with
  | .ldVxK _ => true
  | _ => false

/-- The instructions that read or write a timer (R26, R27). -/
def usesTimer (i : Instr) : Bool :=
  match i with
  | .ldVxDt _ | .ldDtVx _ | .ldStVx _ => true
  | _ => false

/-- The instructions that read an input (R33, R34, R37). -/
def readsInput (i : Instr) : Bool :=
  match i with
  | .skpVx _ | .sknpVx _ | .ldVxK _ | .rndVxNn _ _ => true
  | _ => false

/-! ### Faults and sprites in the words of the spec's tables -/

/-- The number of sprite rows `Dxyn` reads: `min(n, 32 - (Vy mod 32))` (45_draw.md R225, R256). -/
def State.drawnRows (s : State) (y : Reg) (n : BitVec 4) : Nat := min n.toNat (32 - (s.getV y).toNat % 32)

/-- When the instruction faults at execution: the table of 60_exceptions.md R256. -/
def faultsAt (i : Instr) (s : State) : Prop :=
  match i with
  | .callNnn _ => s.top.val = 16
  | .ret => s.top.val = 0
  | .addIVx x => 0xFFFF < s.i.toNat + (s.getV x).toNat
  | .ldBVx _ => s.lsz.val ≤ s.i.toNat + 2
  | .ldMiVx x | .ldVxMi x => s.lsz.val ≤ s.i.toNat + x.val
  | .drwVxVyN _ y n => 0 < s.drawnRows y n ∧ s.lsz.val ≤ s.i.toNat + s.drawnRows y n - 1
  | .skpVx x | .sknpVx x => 15 < (s.getV x).toNat
  | _ => False

/-- A set bit of the first `rows` rows of the sprite at `I`, drawn at `(Vx mod 64, Vy mod 32)`, lands on the cell at
column `cx` and row `cy` (45_draw.md R221, R222): bit `7 - c` of row `r` lands on `(x0 + c, y0 + r)`. -/
def State.spriteCovers (s : State) (x y : Reg) (rows cx cy : Nat) : Bool :=
  decide ((s.getV x).toNat % 64 ≤ cx ∧ cx < (s.getV x).toNat % 64 + 8 ∧
    (s.getV y).toNat % 32 ≤ cy ∧ cy < (s.getV y).toNat % 32 + rows) &&
  (s.mem.read (s.i.toNat + (cy - (s.getV y).toNat % 32))).getLsbD (7 - (cx - (s.getV x).toNat % 64))

end Sys2Proof.Machine
end

