-- ==== Sys2Proof/Certificates/Slice0/Obligations.lean ====
section
/-!
DEFINITION. The statements about the machine, each from the numbered rules of spec/. In a statement about `exec` the
state `s` is the one after the fetch and the advance of `PC`, as in every instruction rule (00_scope.md R11).
`t = { s with f := t.f }` says that nothing but `f` differs between `s` and `t`.
-/

open Sys2Proof Sys2Proof.Machine

/-! ### Control flow (41_control_flow.md) -/

/-- R140, R121: `1nnn` decodes as JP and sets `PC` to `nnn`, nothing else changing; a target at or above `LSZ` makes the
next fetch fail at that address (that the byte at `PC` is read first is the spec's decision D34, log entry 12). -/
def Obligations.JumpGoesToTarget : Prop :=
  ∀ (nnn : BitVec 12) (s : State),
    decode (BitVec.ofNat 16 (0x1000 + nnn.toNat)) = .ok (.jpNnn nnn) ∧
    ∃ t, exec (.jpNnn nnn) s = .next t ∧ t = { s with pc := t.pc } ∧ t.pc.toNat = nnn.toNat ∧
      (s.lsz.val ≤ nnn.toNat → t.fetch = .error nnn.toNat)

/-- R141, R121: `Bnnn` decodes as JP V0 and sets `PC` to `nnn + V0`, not masked, nothing else changing; a sum of 0x1000 or
more makes the next fetch fail at that address (that the byte at `PC` is read first is the spec's decision D34, log
entry 12). -/
def Obligations.OffsetJumpIsNotMasked : Prop :=
  ∀ (nnn : BitVec 12) (s : State),
    decode (BitVec.ofNat 16 (0xB000 + nnn.toNat)) = .ok (.jpV0Nnn nnn) ∧
    ∃ t, exec (.jpV0Nnn nnn) s = .next t ∧ t = { s with pc := t.pc } ∧
      t.pc.toNat = nnn.toNat + (s.getV 0).toNat ∧
      (0x1000 ≤ nnn.toNat + (s.getV 0).toNat → t.fetch = .error (nnn.toNat + (s.getV 0).toNat))

/-- R142, R28, R250: `2nnn` with room pushes the advanced `PC` onto the top of the call stack, counts it in `TOP` and `SP`, and
jumps; with a full stack it takes `StackOverflow`, carrying the value that could not be pushed, and only `FLT` changes
(the fault record is the spec's decision D22, log entry 6). -/
def Obligations.CallPushesReturnAddress : Prop :=
  ∀ (nnn : BitVec 12) (s : State),
    (∀ h : s.top.val < 16, ∃ t, exec (.callNnn nnn) s = .next t ∧
      t = { s with stk := t.stk, top := t.top, sp := t.sp, pc := t.pc } ∧
      t.stk[s.top.val] = s.pc ∧ (∀ j : Fin 16, j.val ≠ s.top.val → t.stk[j] = s.stk[j]) ∧
      t.top.val = s.top.val + 1 ∧ t.sp = s.sp + 1 ∧ t.pc.toNat = nnn.toNat) ∧
    (s.top.val = 16 → exec (.callNnn nnn) s =
      .next { s with flt := some { cause := .stackOverflow, opcode := BitVec.ofNat 16 (0x2000 + nnn.toNat),
                                   addr := s.pc.setWidth 17, pc := s.pc } })

/-- R143, R28, R250: `00EE` with a live entry pops the newest into `PC` and counts it in `TOP` and `SP`, the slots keeping
their contents, the popped one too (decision D29, log entry 30); with an empty stack it takes `StackUnderflow` and only
`FLT` changes (decision D22, log entry 6). -/
def Obligations.ReturnPopsIntoPc : Prop :=
  ∀ s : State,
    (∀ h : 0 < s.top.val, ∃ t, exec .ret s = .next t ∧
      t = { s with top := t.top, sp := t.sp, pc := t.pc } ∧
      t.pc = s.stk[s.top.val - 1] ∧ t.top.val + 1 = s.top.val ∧ t.sp = s.sp - 1) ∧
    (s.top.val = 0 → exec .ret s =
      .next { s with flt := some { cause := .stackUnderflow, opcode := 0x00EE, addr := 0, pc := s.pc } })

/-- R28, R142, R143: a return right after a call comes back to the pushed address with `TOP` and `SP` as before the
call, whatever else happened to the other state in between: last in, first out. -/
def Obligations.CallThenReturnComesBack : Prop :=
  ∀ (nnn : BitVec 12) (s t u : State), s.top.val < 16 → exec (.callNnn nnn) s = .next t →
    u.stk = t.stk → u.top = t.top → u.sp = t.sp →
    ∃ w, exec .ret u = .next w ∧ w.pc = s.pc ∧ w.top = s.top ∧ w.sp = s.sp ∧
      ∀ j : Fin 16, j.val < s.top.val → w.stk[j] = s.stk[j]

/-- R144, R145: `3xnn` and `4xnn` decode as the immediate skips; `PC` advances by 2 more exactly when `Vx = nn`, or
exactly when `Vx` differs from `nn`, and nothing else changes. The premise on `PC` holds after every advance (R24). -/
def Obligations.ImmediateSkips : Prop :=
  ∀ (x : Reg) (nn : Byte) (s : State),
    (decode (BitVec.ofNat 16 (0x3000 + 256 * x.val + nn.toNat)) = .ok (.seVxNn x nn) ∧
      ∃ t, exec (.seVxNn x nn) s = .next t ∧ t = { s with pc := t.pc } ∧
        (s.getV x = nn → s.pc.toNat ≤ 0x1000 → t.pc.toNat = s.pc.toNat + 2) ∧
        (s.getV x ≠ nn → t.pc = s.pc)) ∧
    (decode (BitVec.ofNat 16 (0x4000 + 256 * x.val + nn.toNat)) = .ok (.sneVxNn x nn) ∧
      ∃ t, exec (.sneVxNn x nn) s = .next t ∧ t = { s with pc := t.pc } ∧
        (s.getV x ≠ nn → s.pc.toNat ≤ 0x1000 → t.pc.toNat = s.pc.toNat + 2) ∧
        (s.getV x = nn → t.pc = s.pc))

/-- R146, R147: `5xy0` skips exactly when `Vx = Vy`, `9xy0` exactly when they differ, nothing else changing; any other
lowest digit in classes 5 and 9 is malformed (for class 9 the spec's decision D28, log entry 20). -/
def Obligations.RegisterSkips : Prop :=
  (∀ (x y : Reg) (s : State),
    (∃ t, exec (.seVxVy x y) s = .next t ∧ t = { s with pc := t.pc } ∧
      (s.getV x = s.getV y → s.pc.toNat ≤ 0x1000 → t.pc.toNat = s.pc.toNat + 2) ∧
      (s.getV x ≠ s.getV y → t.pc = s.pc)) ∧
    (∃ t, exec (.sneVxVy x y) s = .next t ∧ t = { s with pc := t.pc } ∧
      (s.getV x ≠ s.getV y → s.pc.toNat ≤ 0x1000 → t.pc.toNat = s.pc.toNat + 2) ∧
      (s.getV x = s.getV y → t.pc = s.pc))) ∧
  (∀ (x y : Reg) (n : Nat), 0 < n → n < 16 →
    decode (BitVec.ofNat 16 (0x5000 + 256 * x.val + 16 * y.val + n)) = .error .malformedOpcode ∧
    decode (BitVec.ofNat 16 (0x9000 + 256 * x.val + 16 * y.val + n)) = .error .malformedOpcode)

/-! ### Registers and arithmetic (42_alu.md) -/

/-- R160, R161, R162: `6xnn`, `7xnn` and `8xy0` decode as such and write `nn`, the sum modulo 256, or `Vy` to `Vx`; every
other register, `VF` included, and all other state is unchanged. -/
def Obligations.PlainRegisterWrites : Prop :=
  ∀ (x y : Reg) (nn : Byte) (s : State),
    (decode (BitVec.ofNat 16 (0x6000 + 256 * x.val + nn.toNat)) = .ok (.ldVxNn x nn) ∧
      ∃ t, exec (.ldVxNn x nn) s = .next t ∧ t = { s with v := t.v } ∧
        t.getV x = nn ∧ ∀ r, r ≠ x → t.getV r = s.getV r) ∧
    (decode (BitVec.ofNat 16 (0x7000 + 256 * x.val + nn.toNat)) = .ok (.addVxNn x nn) ∧
      ∃ t, exec (.addVxNn x nn) s = .next t ∧ t = { s with v := t.v } ∧
        (t.getV x).toNat = ((s.getV x).toNat + nn.toNat) % 256 ∧ ∀ r, r ≠ x → t.getV r = s.getV r) ∧
    (decode (BitVec.ofNat 16 (0x8000 + 256 * x.val + 16 * y.val)) = .ok (.ldVxVy x y) ∧
      ∃ t, exec (.ldVxVy x y) s = .next t ∧ t = { s with v := t.v } ∧
        t.getV x = s.getV y ∧ ∀ r, r ≠ x → t.getV r = s.getV r)

/-- R163, R164, R165: `8xy1`, `8xy2`, `8xy3` write the bitwise OR, AND, exclusive OR of `Vx` and `Vy` to `Vx`, bit by bit;
every other register, `VF` included, and all other state is unchanged (that `VF` is left alone is the spec's inference in
R163). -/
def Obligations.LogicLeavesFlag : Prop :=
  ∀ (x y : Reg) (s : State),
    (∃ t, exec (.orVxVy x y) s = .next t ∧ t = { s with v := t.v } ∧
      (∀ k, (t.getV x).getLsbD k = ((s.getV x).getLsbD k || (s.getV y).getLsbD k)) ∧
      ∀ r, r ≠ x → t.getV r = s.getV r) ∧
    (∃ t, exec (.andVxVy x y) s = .next t ∧ t = { s with v := t.v } ∧
      (∀ k, (t.getV x).getLsbD k = ((s.getV x).getLsbD k && (s.getV y).getLsbD k)) ∧
      ∀ r, r ≠ x → t.getV r = s.getV r) ∧
    (∃ t, exec (.xorVxVy x y) s = .next t ∧ t = { s with v := t.v } ∧
      (∀ k, (t.getV x).getLsbD k = ((s.getV x).getLsbD k ^^ (s.getV y).getLsbD k)) ∧
      ∀ r, r ≠ x → t.getV r = s.getV r)

/-- R166, R171, R172: `8xy4` writes the sum modulo 256 to `Vx` and then the carry to `VF`; with `x = F` the flag wins
(decision D15, log entry 13). Nothing else changes. -/
def Obligations.AddWithCarry : Prop :=
  ∀ (x y : Reg) (s : State), ∃ t, exec (.addVxVy x y) s = .next t ∧ t = { s with v := t.v } ∧
    (x ≠ regF → (t.getV x).toNat = ((s.getV x).toNat + (s.getV y).toNat) % 256) ∧
    (t.getV regF).toNat = (if 255 < (s.getV x).toNat + (s.getV y).toNat then 1 else 0) ∧
    ∀ r, r ≠ x → r ≠ regF → t.getV r = s.getV r

/-- R167, R169, R171, R172: `8xy5` and `8xy7` write `Vx - Vy` or `Vy - Vx` modulo 256 to `Vx` and then to `VF` whether the
minuend was strictly greater (strictness: 90_conflicts.md C2, decision D27, log entry 14); with `x = F` the flag wins
(decision D15, log entry 13). Nothing else changes. -/
def Obligations.SubtractWithStrictFlag : Prop :=
  ∀ (x y : Reg) (s : State),
    (∃ t, exec (.subVxVy x y) s = .next t ∧ t = { s with v := t.v } ∧
      (x ≠ regF → (t.getV x).toNat = ((s.getV x).toNat + 256 - (s.getV y).toNat) % 256) ∧
      (t.getV regF).toNat = (if (s.getV y).toNat < (s.getV x).toNat then 1 else 0) ∧
      ∀ r, r ≠ x → r ≠ regF → t.getV r = s.getV r) ∧
    (∃ t, exec (.subnVxVy x y) s = .next t ∧ t = { s with v := t.v } ∧
      (x ≠ regF → (t.getV x).toNat = ((s.getV y).toNat + 256 - (s.getV x).toNat) % 256) ∧
      (t.getV regF).toNat = (if (s.getV x).toNat < (s.getV y).toNat then 1 else 0) ∧
      ∀ r, r ≠ x → r ≠ regF → t.getV r = s.getV r)

/-- R168, R170, R171: `8xy6` halves `Vx` and `8xyE` doubles it modulo 256, whatever `y` is; then `VF` is the original bit 0
or the original bit 7; with `x = F` the flag wins (decision D15, log entry 13). Nothing else changes. -/
def Obligations.ShiftsByOne : Prop :=
  ∀ (x y : Reg) (s : State),
    (∃ t, exec (.shrVx x y) s = .next t ∧ t = { s with v := t.v } ∧
      (x ≠ regF → (t.getV x).toNat = (s.getV x).toNat / 2) ∧
      (t.getV regF).toNat = (s.getV x).toNat % 2 ∧
      ∀ r, r ≠ x → r ≠ regF → t.getV r = s.getV r) ∧
    (∃ t, exec (.shlVx x y) s = .next t ∧ t = { s with v := t.v } ∧
      (x ≠ regF → (t.getV x).toNat = (s.getV x).toNat * 2 % 256) ∧
      (t.getV regF).toNat = (s.getV x).toNat / 128 ∧
      ∀ r, r ≠ x → r ≠ regF → t.getV r = s.getV r)

/-! ### Memory and the address register (43_memory_address.md) -/

/-- R180: `Annn` decodes as LD I and sets `I` to `nnn`, nothing else changing. -/
def Obligations.LoadAddressRegister : Prop :=
  ∀ (nnn : BitVec 12) (s : State),
    decode (BitVec.ofNat 16 (0xA000 + nnn.toNat)) = .ok (.ldINnn nnn) ∧
    ∃ t, exec (.ldINnn nnn) s = .next t ∧ t = { s with i := t.i } ∧ t.i.toNat = nnn.toNat

/-- R181, R255, R250: `Fx1E` adds `Vx` to `I` without masking and writes no flag; a sum above 16 bits takes
`AddressOverflow` with the sum in the record, `I` unchanged (decision D11, log entry 8; the layout of the record is
decision D22, log entry 6). -/
def Obligations.AddToAddressRegister : Prop :=
  ∀ (x : Reg) (s : State),
    (s.i.toNat + (s.getV x).toNat ≤ 0xFFFF → ∃ t, exec (.addIVx x) s = .next t ∧ t = { s with i := t.i } ∧
      t.i.toNat = s.i.toNat + (s.getV x).toNat) ∧
    (0xFFFF < s.i.toNat + (s.getV x).toNat → ∃ f : FaultRecord, exec (.addIVx x) s = .next { s with flt := some f } ∧
      f.cause = .addressOverflow ∧ f.opcode.toNat = 0xF01E + 256 * x.val ∧
      f.addr.toNat = s.i.toNat + (s.getV x).toNat ∧ f.pc = s.pc)

/-- R182: `Fx29` sets `I` to `Vx * 5 + 0x50` with `Vx` whole (decision D20, log entry 18), nothing else changing. -/
def Obligations.GlyphAddressUsesWholeRegister : Prop :=
  ∀ (x : Reg) (s : State), ∃ t, exec (.ldFVx x) s = .next t ∧ t = { s with i := t.i } ∧
    t.i.toNat = (s.getV x).toNat * 5 + 0x50

/-- R183: with its three addresses valid, `Fx33` stores the hundreds, tens and units digit of `Vx` at `I`, `I+1`, `I+2`;
every other byte of memory and all other state is unchanged. -/
def Obligations.DecimalDigitsStored : Prop :=
  ∀ (x : Reg) (s : State), s.i.toNat + 2 < s.lsz.val →
    ∃ t, exec (.ldBVx x) s = .next t ∧ t = { s with mem := t.mem } ∧
      (t.mem.read s.i.toNat).toNat = (s.getV x).toNat / 100 ∧
      (t.mem.read (s.i.toNat + 1)).toNat = (s.getV x).toNat / 10 % 10 ∧
      (t.mem.read (s.i.toNat + 2)).toNat = (s.getV x).toNat % 10 ∧
      ∀ a, (a < s.i.toNat ∨ s.i.toNat + 2 < a) → t.mem.read a = s.mem.read a

/-- R184: with its addresses valid, `Fx55` stores `V0..Vx` at `I..I+x`, `I` kept; every other byte of memory and all other
state is unchanged. -/
def Obligations.RegistersStored : Prop :=
  ∀ (x : Reg) (s : State), s.i.toNat + x.val < s.lsz.val →
    ∃ t, exec (.ldMiVx x) s = .next t ∧ t = { s with mem := t.mem } ∧
      (∀ j : Reg, j.val ≤ x.val → t.mem.read (s.i.toNat + j.val) = s.getV j) ∧
      ∀ a, (a < s.i.toNat ∨ s.i.toNat + x.val < a) → t.mem.read a = s.mem.read a

/-- R185: with its addresses valid, `Fx65` loads `V0..Vx` from `I..I+x`, `I` kept; every other register and all other state
is unchanged. -/
def Obligations.RegistersLoaded : Prop :=
  ∀ (x : Reg) (s : State), s.i.toNat + x.val < s.lsz.val →
    ∃ t, exec (.ldVxMi x) s = .next t ∧ t = { s with v := t.v } ∧
      (∀ j : Reg, j.val ≤ x.val → t.getV j = s.mem.read (s.i.toNat + j.val)) ∧
      ∀ r : Reg, x.val < r.val → t.getV r = s.getV r

/-- R187, R183, R184, R250: when an address of `Fx33` or `Fx55` is at or above `LSZ`, the bytes below `LSZ` are stored, the
rest of memory is unchanged, and `FLT` records the first address that is not valid, a write, the opcode and `PC`; nothing
else changes (that earlier bytes stay is decision D14, log entry 10; the layout of the record is decision D22, log
entry 6). -/
def Obligations.StoreFaultKeepsEarlierBytes : Prop :=
  ∀ (x : Reg) (s : State),
    (s.lsz.val ≤ s.i.toNat + x.val → ∃ t, exec (.ldMiVx x) s = .next t ∧
      t = { s with mem := t.mem, flt := t.flt } ∧
      t.flt = some { cause := .memoryBoundsError .write, opcode := BitVec.ofNat 16 (0xF055 + 256 * x.val),
                     addr := BitVec.ofNat 17 (max s.i.toNat s.lsz.val), pc := s.pc } ∧
      (∀ j : Reg, s.i.toNat + j.val < s.lsz.val → t.mem.read (s.i.toNat + j.val) = s.getV j) ∧
      ∀ a, (a < s.i.toNat ∨ s.lsz.val ≤ a) → t.mem.read a = s.mem.read a) ∧
    (s.lsz.val ≤ s.i.toNat + 2 → ∃ t, exec (.ldBVx x) s = .next t ∧
      t = { s with mem := t.mem, flt := t.flt } ∧
      t.flt = some { cause := .memoryBoundsError .write, opcode := BitVec.ofNat 16 (0xF033 + 256 * x.val),
                     addr := BitVec.ofNat 17 (max s.i.toNat s.lsz.val), pc := s.pc } ∧
      (s.i.toNat < s.lsz.val → (t.mem.read s.i.toNat).toNat = (s.getV x).toNat / 100) ∧
      (s.i.toNat + 1 < s.lsz.val → (t.mem.read (s.i.toNat + 1)).toNat = (s.getV x).toNat / 10 % 10) ∧
      ∀ a, (a < s.i.toNat ∨ s.lsz.val ≤ a) → t.mem.read a = s.mem.read a)

/-- R187, R185, R250: when an address of `Fx65` is at or above `LSZ`, the registers whose address is below `LSZ` are
loaded, the others are unchanged, and `FLT` records the first address that is not valid, a read, the opcode and `PC`;
nothing else changes (that earlier registers stay is decision D14, log entry 10; the layout of the record is decision
D22, log entry 6). -/
def Obligations.LoadFaultKeepsEarlierRegisters : Prop :=
  ∀ (x : Reg) (s : State), s.lsz.val ≤ s.i.toNat + x.val →
    ∃ t, exec (.ldVxMi x) s = .next t ∧ t = { s with v := t.v, flt := t.flt } ∧
      t.flt = some { cause := .memoryBoundsError .read, opcode := BitVec.ofNat 16 (0xF065 + 256 * x.val),
                     addr := BitVec.ofNat 17 (max s.i.toNat s.lsz.val), pc := s.pc } ∧
      ∀ j : Reg, t.getV j =
        if s.i.toNat + j.val < s.lsz.val then s.mem.read (s.i.toNat + j.val) else s.getV j

/-- R184, R185: storing `V0..Vx` and loading them back from the same memory, `I` and `LSZ` restores those registers,
whatever happened to the registers in between. -/
def Obligations.StoreThenLoadRestoresRegisters : Prop :=
  ∀ (x : Reg) (s t u : State), s.i.toNat + x.val < s.lsz.val → exec (.ldMiVx x) s = .next t →
    u.mem = t.mem → u.i = t.i → u.lsz = t.lsz →
    ∃ w, exec (.ldVxMi x) u = .next w ∧ ∀ j : Reg,
      w.getV j = if j.val ≤ x.val then s.getV j else u.getV j

/-- R75, R184, R64: a byte stored by `Fx55` is what the very next fetch of its address returns: with `PC` on two stored
bytes, the fetch gives the registers stored there, the lower address being the high byte. -/
def Obligations.FetchSeesStoredBytes : Prop :=
  ∀ (x j : Reg) (s t : State) (hj : j.val < x.val), s.i.toNat + x.val < s.lsz.val →
    exec (.ldMiVx x) s = .next t → s.pc.toNat = s.i.toNat + j.val →
    ∃ op, t.fetch = .ok op ∧
      op.toNat = (s.getV j).toNat * 256 + (s.getV ⟨j.val + 1, by omega⟩).toNat

/-! ### Timers and keys (44_timer_key.md) -/

/-- R200, R201, R202: `Fx07`, `Fx15`, `Fx18` decode as such and move `DT` to `Vx`, `Vx` to `DT`, `Vx` to `ST`, nothing else
changing. -/
def Obligations.TimerRegisterMoves : Prop :=
  ∀ (x : Reg) (s : State),
    (decode (BitVec.ofNat 16 (0xF007 + 256 * x.val)) = .ok (.ldVxDt x) ∧
      ∃ t, exec (.ldVxDt x) s = .next t ∧ t = { s with v := t.v } ∧
        t.getV x = s.dt ∧ ∀ r, r ≠ x → t.getV r = s.getV r) ∧
    (decode (BitVec.ofNat 16 (0xF015 + 256 * x.val)) = .ok (.ldDtVx x) ∧
      exec (.ldDtVx x) s = .next { s with dt := s.getV x }) ∧
    (decode (BitVec.ofNat 16 (0xF018 + 256 * x.val)) = .ok (.ldStVx x) ∧
      exec (.ldStVx x) s = .next { s with st := s.getV x })

/-- R203: a timer tick takes each timer one toward zero, never below, independently, and changes nothing else but using up
the event; while a fault is recorded it changes neither timer (decision D23, log entry 7; the agenda is the model's own,
log entry 22). -/
def Obligations.TimerTickCountsDown : Prop :=
  ∀ (s : State) (rest : List Event), s.agenda = .timerTick :: rest →
    ∃ t, step s = .next t ∧ t = { s with dt := t.dt, st := t.st, agenda := rest } ∧
      (s.flt = none → t.dt.toNat = s.dt.toNat - 1 ∧ t.st.toNat = s.st.toNat - 1) ∧
      (s.flt ≠ none → t.dt = s.dt ∧ t.st = s.st)

/-- R33, R34, R37, R296: when the host changes the levels it presents, the machine presents exactly those to the steps that
follow, and nothing else changes but that the event is used up (ports and agenda as data are the model's own, log entries
22 and 23; the ports are the spec's decision D1, log entry 37, and their stability during a step D33, log entry 33). -/
def Obligations.DriveChangesOnlyInputs : Prop :=
  ∀ (s : State) (p : Ports) (rest : List Event), s.agenda = .drive p :: rest →
    step s = .next { s with ports := p, agenda := rest }

/-- R204, R205, R210: one poll of `Fx0A`, row by row. Idle: rewind, latching the key-down cell if it holds a key. Latched:
with an empty key-up cell rewind; with the latched key commit it; with another key do what `KEYWAIT_RELEASE_MATCH` says
(decision D21, log entry 19). -/
def Obligations.KeyWaitPoll : Prop :=
  ∀ (x : Reg) (s : State),
    (s.kw = .idle → s.ports.keyDown = none → exec (.ldVxK x) s = .next { s with pc := s.pc - 2 }) ∧
    (∀ k, s.kw = .idle → s.ports.keyDown = some k →
      exec (.ldVxK x) s = .next { s with pc := s.pc - 2, kw := .keyLatched k }) ∧
    (∀ k, s.kw = .keyLatched k → s.ports.keyUp = none →
      exec (.ldVxK x) s = .next { s with pc := s.pc - 2 }) ∧
    (∀ k j, s.kw = .keyLatched k → s.ports.keyUp = some j → j ≠ k → s.releaseMatch = .sameKey →
      exec (.ldVxK x) s = .next { s with pc := s.pc - 2 }) ∧
    (∀ k j, s.kw = .keyLatched k → s.ports.keyUp = some j → (j = k ∨ s.releaseMatch ≠ .sameKey) →
      ∃ t, exec (.ldVxK x) s = .next t ∧ t = { s with v := t.v, kw := .idle } ∧
        (t.getV x).toNat = (if s.releaseMatch = .anyKeyCommitReleased then j.val else k.val) ∧
        ∀ r, r ≠ x → t.getV r = s.getV r)

/-- R204, R125: the shortest key wait, as steps of the machine and under every release policy. A step that fetches `Fx0A`
with `KW` idle and a key down latches it and leaves `PC` where it was; then, whatever ports the host presents and
whatever events are to follow, a step with an empty key-up cell changes nothing but uses up the event, and a step with
that key in the key-up cell commits it and moves on (the agenda is the model's own, log entry 22). -/
def Obligations.KeyWaitLatchesThenCommits : Prop :=
  ∀ (x k : Fin 16) (s : State), s.Fetches (BitVec.ofNat 16 (0xF00A + 256 * x.val)) → s.kw = .idle →
    s.ports.keyDown = some k →
    ∃ t, step s = .next t ∧ t = { s with kw := .keyLatched k, agenda := s.agenda.tail } ∧
      ∀ (p : Ports) (a : List Event), stepComesNext a →
        (p.keyUp = none → step { t with ports := p, agenda := a } = .next { t with ports := p, agenda := a.tail }) ∧
        (p.keyUp = some k → ∃ u, step { t with ports := p, agenda := a } = .next u ∧
          u = { s with ports := p, agenda := a.tail, v := u.v, pc := u.pc } ∧ u.pc.toNat = s.pc.toNat + 2 ∧
          (u.getV x).toNat = k.val ∧ ∀ r, r ≠ x → u.getV r = s.getV r)

/-- R206, R207, R260, R250: with `Vx` at most 15, `Ex9E` skips exactly when that key of the vector is pressed and `ExA1`
exactly when it is not, nothing else changing; with `Vx` above 15 both take `KeyIndexRange` (decision D19, log entry 9;
the layout of the record is decision D22, log entry 6). -/
def Obligations.KeySkips : Prop :=
  ∀ (x : Reg) (s : State),
    (∀ h : (s.getV x).toNat < 16,
      (∃ t, exec (.skpVx x) s = .next t ∧ t = { s with pc := t.pc } ∧
        (s.ports.keys[(s.getV x).toNat] = true → s.pc.toNat ≤ 0x1000 → t.pc.toNat = s.pc.toNat + 2) ∧
        (s.ports.keys[(s.getV x).toNat] = false → t.pc = s.pc)) ∧
      (∃ t, exec (.sknpVx x) s = .next t ∧ t = { s with pc := t.pc } ∧
        (s.ports.keys[(s.getV x).toNat] = false → s.pc.toNat ≤ 0x1000 → t.pc.toNat = s.pc.toNat + 2) ∧
        (s.ports.keys[(s.getV x).toNat] = true → t.pc = s.pc))) ∧
    (15 < (s.getV x).toNat →
      exec (.skpVx x) s =
        .next { s with flt := some { cause := .keyIndexRange, opcode := BitVec.ofNat 16 (0xE09E + 256 * x.val),
                                     addr := (s.getV x).setWidth 17, pc := s.pc } } ∧
      exec (.sknpVx x) s =
        .next { s with flt := some { cause := .keyIndexRange, opcode := BitVec.ofNat 16 (0xE0A1 + 256 * x.val),
                                     addr := (s.getV x).setWidth 17, pc := s.pc } })

/-! ### Drawing (45_draw.md) -/

/-- R220: `00E0` decodes as CLS and makes every cell of the grid false, nothing else changing, `VF` included. -/
def Obligations.ClearScreen : Prop :=
  ∀ s : State, decode 0x00E0 = .ok .cls ∧
    ∃ t, exec .cls s = .next t ∧ t = { s with gfx := t.gfx } ∧
      ∀ x y, x < 64 → y < 32 → pixelAt t.gfx x y = false

/-- R221 to R226: with the rows it draws in bounds, `Dxyn` inverts exactly the cells inside the grid under a set sprite
bit, sets `VF` to 1 when one of them was set and to 0 otherwise, and changes nothing else; so it clips at the right and
the bottom and never wraps (the collision condition is decision D16, log entry 15; that clipped rows are not read is
D17, log entry 16; that with `x` or `y` equal to `F` the coordinates are those of the old `VF` is D18, log entry 17). -/
def Obligations.SpriteDrawn : Prop :=
  ∀ (x y : Reg) (n : BitVec 4) (s : State),
    (s.drawnRows y n = 0 ∨ s.i.toNat + s.drawnRows y n ≤ s.lsz.val) →
    ∃ t, exec (.drwVxVyN x y n) s = .next t ∧ t = { s with gfx := t.gfx, v := t.v } ∧
      (∀ cx cy, cx < 64 → cy < 32 →
        pixelAt t.gfx cx cy = (pixelAt s.gfx cx cy ^^ s.spriteCovers x y n.toNat cx cy)) ∧
      (t.getV regF = 0 ∨ t.getV regF = 1) ∧
      (t.getV regF = 1 ↔ ∃ cx cy, cx < 64 ∧ cy < 32 ∧ s.spriteCovers x y n.toNat cx cy = true ∧
        pixelAt s.gfx cx cy = true) ∧
      ∀ r, r ≠ regF → t.getV r = s.getV r

/-- R226, R225, R252, R250: when a row that `Dxyn` draws lies at or above `LSZ`, the rows below `LSZ` are composited and stay,
`VF` and every register keep their values, and `FLT` records the first row address that is not valid, a read, the opcode
and `PC`; nothing else changes (decisions D14, D17 and D18, log entries 10, 16 and 17; the layout of the record is
decision D22, log entry 6). -/
def Obligations.DrawFaultKeepsEarlierRows : Prop :=
  ∀ (x y : Reg) (n : BitVec 4) (s : State),
    0 < s.drawnRows y n → s.lsz.val < s.i.toNat + s.drawnRows y n →
    ∃ t, exec (.drwVxVyN x y n) s = .next t ∧ t = { s with gfx := t.gfx, flt := t.flt } ∧
      t.flt = some { cause := .memoryBoundsError .read,
                     opcode := BitVec.ofNat 16 (0xD000 + 256 * x.val + 16 * y.val + n.toNat),
                     addr := BitVec.ofNat 17 (max s.i.toNat s.lsz.val), pc := s.pc } ∧
      ∀ cx cy, cx < 64 → cy < 32 →
        pixelAt t.gfx cx cy =
          (pixelAt s.gfx cx cy ^^ s.spriteCovers x y (s.lsz.val - s.i.toNat) cx cy)

/-- R221, R224, R225: drawing the same sprite twice at the same place restores the grid, and the second draw reports a collision
exactly when a set sprite bit lands on a cell inside the grid that was false before the first draw. `x` and `y` other than
`F` keep the place the same. (R221's corner case says only "if the sprite has any set bit inside the grid"; its
pseudocode gives this condition, log entry 29. The collision condition is decision D16, log entry 15, and that clipped
rows need no valid address is D17, log entry 16.) -/
def Obligations.DrawingTwiceRestoresGrid : Prop :=
  ∀ (x y : Reg) (n : BitVec 4) (s t : State), x ≠ regF → y ≠ regF →
    (s.drawnRows y n = 0 ∨ s.i.toNat + s.drawnRows y n ≤ s.lsz.val) →
    exec (.drwVxVyN x y n) s = .next t →
    ∃ u, exec (.drwVxVyN x y n) t = .next u ∧ u.gfx = s.gfx ∧
      (u.getV regF = 1 ↔
        ∃ cx cy, cx < 64 ∧ cy < 32 ∧ s.spriteCovers x y n.toNat cx cy = true ∧ pixelAt s.gfx cx cy = false)

/-- R78, R295: bit `y*64 + x` of the output port `gfx_out` is the cell at column `x` and row `y` (the port and its bit
numbering are the spec's decision D1, log entry 37). -/
def Obligations.PixelPortIsRowMajor : Prop :=
  ∀ (s : State) (x y : Nat), x < 64 → y < 32 → s.gfxOut.getLsbD (y * 64 + x) = pixelAt s.gfx x y

/-! ### Random (46_random.md) -/

/-- R240: `Cxnn` decodes as RND and writes `rand AND nn` to `Vx`, so every bit that is 0 in `nn` is 0; every other register,
`VF` included, and all other state of the spec is unchanged. What the host's source presents next and the model's count of
draws may change (log entry 21); nothing is said of the next byte, which is free. -/
def Obligations.MaskedRandomByte : Prop :=
  ∀ (x : Reg) (nn : Byte) (s : State),
    decode (BitVec.ofNat 16 (0xC000 + 256 * x.val + nn.toNat)) = .ok (.rndVxNn x nn) ∧
    ∃ t, exec (.rndVxNn x nn) s = .next t ∧
      t = { s with v := t.v, ports := { s.ports with rand := t.ports.rand }, draws := t.draws } ∧
      t.getV x = s.ports.rand &&& nn ∧ (∀ k, nn.getLsbD k = false → (t.getV x).getLsbD k = false) ∧
      ∀ r, r ≠ x → t.getV r = s.getV r

/-! ### The execution step and the faults (40_engine_step.md, 60_exceptions.md) -/

/-- R120, R122: when no fault is recorded, the next event is a step and the two bytes at `PC` decode to an instruction,
the machine's step is that instruction's meaning run from the state whose `PC` is advanced by 2 and whose agenda has the
step used up (the agenda is the model's own, log entry 22). -/
def Obligations.StepRunsDecodedInstruction : Prop :=
  ∀ (s : State) (op : Word) (i : Instr), s.Fetches op → decode op = .ok i →
    step s = exec i { s with pc := s.pc + 2, agenda := s.agenda.tail }

/-- R251, R100, R250: when the two bytes at `PC` are an illegal opcode, the step advances `PC` and records `DecodeError` with the
opcode, the sub-kind (0 unknown-opcode, 1 unknown-operation, 2 malformed-opcode) and the advanced `PC`; nothing else
changes but that the event is used up (record layout: decision D22, log entry 6; class 9: D28, log entry 20; agenda: log
entry 22). -/
def Obligations.IllegalOpcodeTaken : Prop :=
  ∀ (s : State) (op : Word) (e : IllegalOpcode), s.Fetches op → decode op = .error e →
    step s = .next { s with
      pc := s.pc + 2
      agenda := s.agenda.tail
      flt := some { cause := .decodeError, opcode := op,
                    addr := (match e with | .unknownOpcode => 0 | .unknownOperation => 1 | .malformedOpcode => 2),
                    pc := s.pc + 2 } }

/-- R121, R252, R250: a step whose first or second opcode byte is at or above `LSZ` records `MemoryBoundsError` with kind fetch,
that byte's address, opcode 0 and the instruction's own address; `PC` is not advanced and nothing else changes but that
the event is used up (order and `PC`: decision D34, log entry 12; opcode 0 and the layout of the record: decision D22, log
entry 6; agenda: log entry 22). -/
def Obligations.FetchFaultTaken : Prop :=
  ∀ s : State, s.flt = none → stepComesNext s.agenda → s.lsz.val ≤ s.pc.toNat + 1 →
    step s = .next { s with
      agenda := s.agenda.tail
      flt := some { cause := .memoryBoundsError .fetch, opcode := 0,
                    addr := BitVec.ofNat 17 (if s.lsz.val ≤ s.pc.toNat then s.pc.toNat else s.pc.toNat + 1),
                    pc := s.pc } }

/-- R127: while a fault is recorded, a step changes nothing, and a timer tick changes nothing but uses up the event
(decision D23, log entry 7). -/
def Obligations.FaultedCoreIgnoresEvents : Prop :=
  ∀ s : State, s.flt ≠ none →
    (s.agenda = [] → step s = .next s) ∧
    (∀ rest, s.agenda = .step :: rest → step s = .next { s with agenda := rest }) ∧
    (∀ rest, s.agenda = .timerTick :: rest → step s = .next { s with agenda := rest })

/-- R36, R261, R127: no event but `reset` clears or changes the fault record once it is set (that further steps and ticks
leave it is decision D23, log entry 7; the record itself is D22, log entry 6). -/
def Obligations.OnlyResetClearsFault : Prop :=
  ∀ (s t : State) (f : FaultRecord), s.flt = some f → step s = .next t →
    t.flt = some f ∨ (t.flt = none ∧ ∃ rest, s.agenda = .reset :: rest)

/-- R256, R250: executed from a state without a fault, every instruction answers a next state, and a fault is recorded in
it exactly when the table of R256 says so, with the opcode and the `PC` of the advanced state in the record (decisions in
that table: AddressOverflow D11, log entry 8; KeyIndexRange D19, log entry 9; clipped rows not read D17, log entry 16; the
record is D22, log entry 6). -/
def Obligations.FaultsExactlyAsTabulated : Prop :=
  ∀ (i : Instr) (s : State), s.flt = none → ∃ t, exec i s = .next t ∧
    (t.flt = none ↔ ¬ faultsAt i s) ∧ ∀ f, t.flt = some f → f.pc = s.pc ∧ f.opcode = encode i

/-! ### Reset, load and the other events (70_reset_and_hazards.md, 20_memory.md) -/

/-- R39: the state after reset. `PC`, `TOP` and `LSZ` are stated by the source; the zeros of `V`, `I`, `SP`, `DT`, `ST`, the
memory outside the font, and the clear grid are the spec's decisions D2 to D8 (log entries 1, 2, 4), `KW` D9 (log
entry 5), `FLT` D22 (log entry 6), and the zeros of the stack slots D29 (log entry 1). -/
def Obligations.ResetStateValues : Prop :=
  State.reset.pc.toNat = 0x200 ∧ State.reset.top.val = 0 ∧ State.reset.lsz.val = 0 ∧
  (∀ x, State.reset.getV x = 0) ∧ State.reset.i = 0 ∧ State.reset.sp = 0 ∧ State.reset.dt = 0 ∧ State.reset.st = 0 ∧
  State.reset.kw = .idle ∧ State.reset.flt = none ∧ (∀ j : Fin 16, State.reset.stk[j] = 0) ∧
  (∀ x y, pixelAt State.reset.gfx x y = false) ∧
  (∀ a, a < 0x50 ∨ 0xA0 ≤ a → State.reset.mem.read a = 0) ∧
  (∀ j : Fin 80, State.reset.mem.read (0x50 + j.val) = State.reset.mem.font[j])

/-- R290, R40: a `reset` event, in whatever state it finds the machine, leaves every piece of the spec's state as
`State.reset` has it, memory being the run's font and zeros; the run's parameters, the presented ports and the events to
come are kept (log entry 24; the event is the spec's decision D1, log entry 37; the zeros outside the font are decision D6, log entry 2, and the other decided reset values
are those of `ResetStateValues`, log entries 1, 4, 5 and 6). -/
def Obligations.ResetEventDiscardsState : Prop :=
  ∀ (s : State) (rest : List Event), s.agenda = .reset :: rest →
    ∃ t, step s = .next t ∧
      t = { State.reset with mem := t.mem, ports := s.ports, releaseMatch := s.releaseMatch, agenda := rest, draws := s.draws } ∧
      (∀ a, a < 0x50 ∨ 0xA0 ≤ a → t.mem.read a = 0) ∧
      (∀ j : Fin 80, t.mem.read (0x50 + j.val) = s.mem.font[j])

/-- R77: a load after reset and before the first step puts byte `j` of an image of at most 3584 bytes at `0x200 + j`, sets
`LSZ` to `0x200` plus its length, and leaves every other byte of memory and all other state as it was (the bound on the
length is decision D10, log entry 25; the agenda is the model's own, log entry 22). -/
def Obligations.LoadPlacesImage : Prop :=
  ∀ (s : State) (rom : List Byte) (rest : List Event), s.agenda = .load rom :: rest → s.lsz.val = 0 → s.flt = none →
    romWellFormed rom = true →
    ∃ t, step s = .next t ∧ t = { s with mem := t.mem, lsz := t.lsz, agenda := rest } ∧
      t.lsz.val = 0x200 + rom.length ∧
      (∀ (j : Nat) (h : j < rom.length), t.mem.read (0x200 + j) = rom[j]) ∧
      ∀ a, (a < 0x200 ∨ 0x200 + rom.length ≤ a) → t.mem.read a = s.mem.read a

/-- R77, R296: the machine always has a next state, except for a load when something is loaded already or the core is
faulted; such a load never has one and stops by name (log entry 25); and an image over 3584 bytes leaves memory, `LSZ` and
all else as they were (decision D10, log entry 25). -/
def Obligations.OnlyRepeatedLoadStops : Prop :=
  (∀ s : State, (∃ t, step s = .next t) ∨
    ∃ rom rest, s.agenda = .load rom :: rest ∧ (s.lsz.val ≠ 0 ∨ s.flt ≠ none) ∧
      step s = .fault .loadHasNoTransition) ∧
  (∀ (s : State) (rom : List Byte) (rest : List Event), s.agenda = .load rom :: rest →
    (s.lsz.val ≠ 0 ∨ s.flt ≠ none) → step s = .fault .loadHasNoTransition) ∧
  (∀ (s : State) (rom : List Byte) (rest : List Event), s.agenda = .load rom :: rest → s.lsz.val = 0 → s.flt = none →
    romWellFormed rom = false → step s = .next { s with agenda := rest })

/-! ### Decoding and encoding (30_encoding.md) -/

/-- R91: the six fields of every opcode are its bits, and they overlap as stated: `nn` is `y` and `n`, `nnn` is `x` and
`nn`. -/
def Obligations.FieldExtraction : Prop :=
  (∀ op : Word,
    (fieldUpper op).toNat = op.toNat / 4096 ∧ (fieldX op).val = op.toNat / 256 % 16 ∧
    (fieldY op).val = op.toNat / 16 % 16 ∧ (fieldN op).toNat = op.toNat % 16 ∧
    (fieldNn op).toNat = op.toNat % 256 ∧ (fieldNnn op).toNat = op.toNat % 4096 ∧
    (fieldNn op).toNat = (fieldY op).val * 16 + (fieldN op).toNat ∧
    (fieldNnn op).toNat = (fieldX op).val * 256 + (fieldNn op).toNat) ∧
  (fieldX 0x1234 = 2 ∧ fieldY 0x1234 = 3 ∧ fieldN 0x1234 = 4 ∧ fieldNn 0x1234 = 0x34 ∧ fieldNnn 0x1234 = 0x234 ∧
    fieldUpper 0x1234 = 1)

/-- R95 to R99, and the vectors T-ENC-1: some words written from the spec's patterns decode to their instructions. -/
def Obligations.SampleWordsDecode : Prop :=
  decode 0x00E0 = .ok .cls ∧ decode 0x00EE = .ok .ret ∧ decode 0x8AB4 = .ok (.addVxVy 0xA 0xB) ∧
  decode 0xD7F5 = .ok (.drwVxVyN 7 0xF 5) ∧ decode 0xF365 = .ok (.ldVxMi 3) ∧ decode 0xE0A1 = .ok (.sknpVx 0) ∧
  decode 0xBFFF = .ok (.jpV0Nnn 0xFFF) ∧ decode 0x8C96 = .ok (.shrVx 0xC 9)

/-- R95 to R99: every instruction, with every operand at every value of its field, is what its own word decodes to. -/
def Obligations.DecodeOfEncode : Prop :=
  ∀ i : Instr, decode (encode i) = .ok i

/-- R95 to R101: an opcode that decodes is the word of the instruction it decodes to, so the decoder loses no bit. For
`8xy6` and `8xyE`, where R101 ignores `y`, this is so because the syntax keeps it, the model's choice (log entry 28); that
class 9 has no second word is decision D28 (log entry 20). -/
def Obligations.EncodeOfDecode : Prop :=
  ∀ (op : Word) (i : Instr), decode op = .ok i → encode i = op

/-- R107: on every opcode the decoder and spec/opcode_table.json agree. A legal opcode selects exactly one row of the
table, the one with its instruction's mnemonic, and an illegal opcode selects none. -/
def Obligations.DecoderAgreesWithTable : Prop :=
  ∀ op : Word, (opcodeTable.filter fun row => rowSelects row op).map Prod.fst =
    match decode op with
    | .ok i => [i.mnemonic]
    | .error _ => []

/-- R100: which opcodes are illegal, and with which sub-kind (for class 9 decision D28, 90_conflicts.md C4, log
entry 20). -/
def Obligations.IllegalOpcodesBySubKind : Prop :=
  ∀ op : Word,
    (decode op = .error .unknownOpcode ↔
      (op.toNat / 4096 = 0 ∧ op.toNat ≠ 0x00E0 ∧ op.toNat ≠ 0x00EE) ∨
      (op.toNat / 4096 = 14 ∧ op.toNat % 256 ∉ [0x9E, 0xA1]) ∨
      (op.toNat / 4096 = 15 ∧ op.toNat % 256 ∉ [0x07, 0x0A, 0x15, 0x18, 0x1E, 0x29, 0x33, 0x55, 0x65])) ∧
    (decode op = .error .unknownOperation ↔
      op.toNat / 4096 = 8 ∧ op.toNat % 16 ∈ [0x8, 0x9, 0xA, 0xB, 0xC, 0xD, 0xF]) ∧
    (decode op = .error .malformedOpcode ↔
      (op.toNat / 4096 = 5 ∨ op.toNat / 4096 = 9) ∧ op.toNat % 16 ≠ 0)

/-! ### Whole-machine rules -/

/-- R20, R21: an instruction changes no general register but its destinations, and `VF` as a flag only in the six
instructions that define one. -/
def Obligations.RegistersFrame : Prop :=
  ∀ (i : Instr) (s t : State) (r : Reg), exec i s = .next t → writesRegister i r = false → t.getV r = s.getV r

/-- R21, R171: each of the six flag-defining instructions, when it completes without a fault, leaves `VF` at 0 or 1 (for
`8xy4` to `8xy7` and `8xyE` with `x = F` this rests on the flag being written last, decision D15, log entry 13). -/
def Obligations.FlagIsZeroOrOne : Prop :=
  ∀ (i : Instr) (s t : State), definesFlag i = true → s.flt = none → exec i s = .next t → t.flt = none →
    t.getV regF = 0 ∨ t.getV regF = 1

/-- R148, R23: an instruction that is no jump, call, return, skip or key wait leaves `PC` at the advanced value; and no
instruction sets it to anything above `0x10FE` when the advanced `PC` and the live return addresses are at most `0x1000`
(R24; that `PC` is not masked is decision D12, log entry 27). -/
def Obligations.ProgramCounterFrame : Prop :=
  ∀ (i : Instr) (s t : State), exec i s = .next t →
    (writesPc i = false → t.pc = s.pc) ∧
    (2 ≤ s.pc.toNat → s.pc.toNat ≤ 0x1000 → (∀ j : Fin 16, j.val < s.top.val → s.stk[j].toNat ≤ 0x1000) →
      t.pc.toNat ≤ 0x10FE)

/-- R269, R22, R25 to R28, R31 to R35, R40, R67: every special register and unit is written only by its own instructions:
`I` by three, the stack and `SP` by two, each timer by one, `KW` by one, pixels by two, memory by two; no instruction
changes `LSZ`, the key inputs, the run's parameters or the events to come (the agenda is the model's own, log
entry 22). -/
def Obligations.SpecialStateHasItsOwners : Prop :=
  ∀ (i : Instr) (s t : State), exec i s = .next t →
    (writesI i = false → t.i = s.i) ∧
    (usesStack i = false → t.stk = s.stk ∧ t.top = s.top ∧ t.sp = s.sp) ∧
    (writesDelay i = false → t.dt = s.dt) ∧ (writesSound i = false → t.st = s.st) ∧
    (usesKeyWait i = false → t.kw = s.kw) ∧
    (writesPixels i = false → t.gfx = s.gfx) ∧
    (storesMemory i = false → ∀ a, t.mem.read a = s.mem.read a) ∧
    t.lsz = s.lsz ∧ t.ports.keys = s.ports.keys ∧ t.ports.keyDown = s.ports.keyDown ∧ t.ports.keyUp = s.ports.keyUp ∧
    t.releaseMatch = s.releaseMatch ∧ t.mem.font = s.mem.font ∧ t.agenda = s.agenda

/-- R7, R203: a timer tick and an instruction that neither reads nor writes a timer may come in either order: ticking
before a fault-free instruction gives the state that ticking after it gives (that either order is a run is decision D24,
log entry 22). -/
def Obligations.TickCommutesWithInstructions : Prop :=
  ∀ (i : Instr) (s t : State), usesTimer i = false → s.flt = none → exec i s = .next t → t.flt = none →
    exec i (timerTick s) = .next (timerTick t)

/-- R128, R209: an instruction that reads no input gives the same result whatever levels the host presents (levels are
stable during a step: decision D33, log entry 33). -/
def Obligations.UnreadInputsAreIgnored : Prop :=
  ∀ (i : Instr) (s t : State) (p : Ports), readsInput i = false → exec i s = .next t →
    exec i { s with ports := p } = .next { t with ports := p }

/-- R305, R140: a jump to its own address, fetched without a fault, leaves every piece of state as it was but for using up
the event (log entry 22), so the machine stays there. -/
def Obligations.SelfJumpChangesNothing : Prop :=
  ∀ s : State, s.pc.toNat < 0x1000 → s.Fetches (BitVec.ofNat 16 (0x1000 + s.pc.toNat)) →
    step s = .next { s with agenda := s.agenda.tail }

/-! ### The invariant -/

/-- R39, R29: the state after reset meets the invariant (that `SP` equals `TOP` there rests on `SP = 0`, decision D4, log
entry 1). -/
def Obligations.ResetMeetsInvariant : Prop :=
  State.reset.Inv

/-- R24, R29, R31, R61: every transition of the machine, whatever event it is, keeps the invariant: memory stays canonical
inside the 4096-byte array, `SP` stays equal to `TOP`, `PC` stays at most `0x10FE`, live return addresses at most
`0x1000`, and `LSZ` is 0 or at least `0x200` (that a reset makes `SP` equal to `TOP` rests on `SP = 0`, decision D4, log
entry 1). -/
def Obligations.StepKeepsInvariant : Prop :=
  ∀ s t : State, s.Inv → step s = .next t → t.Inv

/-- R24, R29, R7, R40: every state reached from reset by any number of transitions meets the invariant, for every schedule
of events (loads, ticks, resets, inputs; that any order is a run is decision D24, log entry 22) and every choice of the
run's parameters (that `SP` equals `TOP` at the start
rests on `SP = 0`, decision D4, log entry 1). -/
def Obligations.EveryScheduledRunMeetsInvariant : Prop :=
  ∀ (agenda : List Event) (font : Vector Byte 80) (policy : ReleaseMatch) (n : Nat) (t : State),
    Host.Core.run core n
      { State.reset with agenda := agenda, mem := Memory.initial font, releaseMatch := policy } = .next t → t.Inv
end

