-- ==== Sys2Proof/Laws/State.lean ====
section
/-!
SUPPORT. One lemma per field per update of the state, each true by definition, so that no later proof unfolds a record
update; and what reading a register gives after each update.
-/

namespace Sys2Proof.Machine

variable (s : State)

/-! ### State.setV -/

@[simp] theorem State.setV_v (x : Reg) (b : Byte) : (s.setV x b).v = s.v.set x b := rfl
@[simp] theorem State.setV_i (x : Reg) (b : Byte) : (s.setV x b).i = s.i := rfl
@[simp] theorem State.setV_pc (x : Reg) (b : Byte) : (s.setV x b).pc = s.pc := rfl
@[simp] theorem State.setV_sp (x : Reg) (b : Byte) : (s.setV x b).sp = s.sp := rfl
@[simp] theorem State.setV_dt (x : Reg) (b : Byte) : (s.setV x b).dt = s.dt := rfl
@[simp] theorem State.setV_st (x : Reg) (b : Byte) : (s.setV x b).st = s.st := rfl
@[simp] theorem State.setV_stk (x : Reg) (b : Byte) : (s.setV x b).stk = s.stk := rfl
@[simp] theorem State.setV_top (x : Reg) (b : Byte) : (s.setV x b).top = s.top := rfl
@[simp] theorem State.setV_mem (x : Reg) (b : Byte) : (s.setV x b).mem = s.mem := rfl
@[simp] theorem State.setV_lsz (x : Reg) (b : Byte) : (s.setV x b).lsz = s.lsz := rfl
@[simp] theorem State.setV_gfx (x : Reg) (b : Byte) : (s.setV x b).gfx = s.gfx := rfl
@[simp] theorem State.setV_kw (x : Reg) (b : Byte) : (s.setV x b).kw = s.kw := rfl
@[simp] theorem State.setV_flt (x : Reg) (b : Byte) : (s.setV x b).flt = s.flt := rfl
@[simp] theorem State.setV_ports (x : Reg) (b : Byte) : (s.setV x b).ports = s.ports := rfl
@[simp] theorem State.setV_releaseMatch (x : Reg) (b : Byte) : (s.setV x b).releaseMatch = s.releaseMatch := rfl
@[simp] theorem State.setV_agenda (x : Reg) (b : Byte) : (s.setV x b).agenda = s.agenda := rfl
@[simp] theorem State.setV_draws (x : Reg) (b : Byte) : (s.setV x b).draws = s.draws := rfl
@[simp] theorem State.setV_valid (x : Reg) (b : Byte) (n : Nat) : (s.setV x b).valid n = s.valid n := rfl

/-! ### State.setI -/

@[simp] theorem State.setI_v (w : Word) : (s.setI w).v = s.v := rfl
@[simp] theorem State.setI_i (w : Word) : (s.setI w).i = w := rfl
@[simp] theorem State.setI_pc (w : Word) : (s.setI w).pc = s.pc := rfl
@[simp] theorem State.setI_sp (w : Word) : (s.setI w).sp = s.sp := rfl
@[simp] theorem State.setI_dt (w : Word) : (s.setI w).dt = s.dt := rfl
@[simp] theorem State.setI_st (w : Word) : (s.setI w).st = s.st := rfl
@[simp] theorem State.setI_stk (w : Word) : (s.setI w).stk = s.stk := rfl
@[simp] theorem State.setI_top (w : Word) : (s.setI w).top = s.top := rfl
@[simp] theorem State.setI_mem (w : Word) : (s.setI w).mem = s.mem := rfl
@[simp] theorem State.setI_lsz (w : Word) : (s.setI w).lsz = s.lsz := rfl
@[simp] theorem State.setI_gfx (w : Word) : (s.setI w).gfx = s.gfx := rfl
@[simp] theorem State.setI_kw (w : Word) : (s.setI w).kw = s.kw := rfl
@[simp] theorem State.setI_flt (w : Word) : (s.setI w).flt = s.flt := rfl
@[simp] theorem State.setI_ports (w : Word) : (s.setI w).ports = s.ports := rfl
@[simp] theorem State.setI_releaseMatch (w : Word) : (s.setI w).releaseMatch = s.releaseMatch := rfl
@[simp] theorem State.setI_agenda (w : Word) : (s.setI w).agenda = s.agenda := rfl
@[simp] theorem State.setI_draws (w : Word) : (s.setI w).draws = s.draws := rfl
@[simp] theorem State.setI_getV (w : Word) (r : Reg) : (s.setI w).getV r = s.getV r := rfl
@[simp] theorem State.setI_valid (w : Word) (n : Nat) : (s.setI w).valid n = s.valid n := rfl

/-! ### State.setPc -/

@[simp] theorem State.setPc_v (w : Word) : (s.setPc w).v = s.v := rfl
@[simp] theorem State.setPc_i (w : Word) : (s.setPc w).i = s.i := rfl
@[simp] theorem State.setPc_pc (w : Word) : (s.setPc w).pc = w := rfl
@[simp] theorem State.setPc_sp (w : Word) : (s.setPc w).sp = s.sp := rfl
@[simp] theorem State.setPc_dt (w : Word) : (s.setPc w).dt = s.dt := rfl
@[simp] theorem State.setPc_st (w : Word) : (s.setPc w).st = s.st := rfl
@[simp] theorem State.setPc_stk (w : Word) : (s.setPc w).stk = s.stk := rfl
@[simp] theorem State.setPc_top (w : Word) : (s.setPc w).top = s.top := rfl
@[simp] theorem State.setPc_mem (w : Word) : (s.setPc w).mem = s.mem := rfl
@[simp] theorem State.setPc_lsz (w : Word) : (s.setPc w).lsz = s.lsz := rfl
@[simp] theorem State.setPc_gfx (w : Word) : (s.setPc w).gfx = s.gfx := rfl
@[simp] theorem State.setPc_kw (w : Word) : (s.setPc w).kw = s.kw := rfl
@[simp] theorem State.setPc_flt (w : Word) : (s.setPc w).flt = s.flt := rfl
@[simp] theorem State.setPc_ports (w : Word) : (s.setPc w).ports = s.ports := rfl
@[simp] theorem State.setPc_releaseMatch (w : Word) : (s.setPc w).releaseMatch = s.releaseMatch := rfl
@[simp] theorem State.setPc_agenda (w : Word) : (s.setPc w).agenda = s.agenda := rfl
@[simp] theorem State.setPc_draws (w : Word) : (s.setPc w).draws = s.draws := rfl
@[simp] theorem State.setPc_getV (w : Word) (r : Reg) : (s.setPc w).getV r = s.getV r := rfl
@[simp] theorem State.setPc_valid (w : Word) (n : Nat) : (s.setPc w).valid n = s.valid n := rfl

/-! ### State.setSp -/

@[simp] theorem State.setSp_v (b : Byte) : (s.setSp b).v = s.v := rfl
@[simp] theorem State.setSp_i (b : Byte) : (s.setSp b).i = s.i := rfl
@[simp] theorem State.setSp_pc (b : Byte) : (s.setSp b).pc = s.pc := rfl
@[simp] theorem State.setSp_sp (b : Byte) : (s.setSp b).sp = b := rfl
@[simp] theorem State.setSp_dt (b : Byte) : (s.setSp b).dt = s.dt := rfl
@[simp] theorem State.setSp_st (b : Byte) : (s.setSp b).st = s.st := rfl
@[simp] theorem State.setSp_stk (b : Byte) : (s.setSp b).stk = s.stk := rfl
@[simp] theorem State.setSp_top (b : Byte) : (s.setSp b).top = s.top := rfl
@[simp] theorem State.setSp_mem (b : Byte) : (s.setSp b).mem = s.mem := rfl
@[simp] theorem State.setSp_lsz (b : Byte) : (s.setSp b).lsz = s.lsz := rfl
@[simp] theorem State.setSp_gfx (b : Byte) : (s.setSp b).gfx = s.gfx := rfl
@[simp] theorem State.setSp_kw (b : Byte) : (s.setSp b).kw = s.kw := rfl
@[simp] theorem State.setSp_flt (b : Byte) : (s.setSp b).flt = s.flt := rfl
@[simp] theorem State.setSp_ports (b : Byte) : (s.setSp b).ports = s.ports := rfl
@[simp] theorem State.setSp_releaseMatch (b : Byte) : (s.setSp b).releaseMatch = s.releaseMatch := rfl
@[simp] theorem State.setSp_agenda (b : Byte) : (s.setSp b).agenda = s.agenda := rfl
@[simp] theorem State.setSp_draws (b : Byte) : (s.setSp b).draws = s.draws := rfl
@[simp] theorem State.setSp_getV (b : Byte) (r : Reg) : (s.setSp b).getV r = s.getV r := rfl
@[simp] theorem State.setSp_valid (b : Byte) (n : Nat) : (s.setSp b).valid n = s.valid n := rfl

/-! ### State.setDt -/

@[simp] theorem State.setDt_v (b : Byte) : (s.setDt b).v = s.v := rfl
@[simp] theorem State.setDt_i (b : Byte) : (s.setDt b).i = s.i := rfl
@[simp] theorem State.setDt_pc (b : Byte) : (s.setDt b).pc = s.pc := rfl
@[simp] theorem State.setDt_sp (b : Byte) : (s.setDt b).sp = s.sp := rfl
@[simp] theorem State.setDt_dt (b : Byte) : (s.setDt b).dt = b := rfl
@[simp] theorem State.setDt_st (b : Byte) : (s.setDt b).st = s.st := rfl
@[simp] theorem State.setDt_stk (b : Byte) : (s.setDt b).stk = s.stk := rfl
@[simp] theorem State.setDt_top (b : Byte) : (s.setDt b).top = s.top := rfl
@[simp] theorem State.setDt_mem (b : Byte) : (s.setDt b).mem = s.mem := rfl
@[simp] theorem State.setDt_lsz (b : Byte) : (s.setDt b).lsz = s.lsz := rfl
@[simp] theorem State.setDt_gfx (b : Byte) : (s.setDt b).gfx = s.gfx := rfl
@[simp] theorem State.setDt_kw (b : Byte) : (s.setDt b).kw = s.kw := rfl
@[simp] theorem State.setDt_flt (b : Byte) : (s.setDt b).flt = s.flt := rfl
@[simp] theorem State.setDt_ports (b : Byte) : (s.setDt b).ports = s.ports := rfl
@[simp] theorem State.setDt_releaseMatch (b : Byte) : (s.setDt b).releaseMatch = s.releaseMatch := rfl
@[simp] theorem State.setDt_agenda (b : Byte) : (s.setDt b).agenda = s.agenda := rfl
@[simp] theorem State.setDt_draws (b : Byte) : (s.setDt b).draws = s.draws := rfl
@[simp] theorem State.setDt_getV (b : Byte) (r : Reg) : (s.setDt b).getV r = s.getV r := rfl
@[simp] theorem State.setDt_valid (b : Byte) (n : Nat) : (s.setDt b).valid n = s.valid n := rfl

/-! ### State.setSt -/

@[simp] theorem State.setSt_v (b : Byte) : (s.setSt b).v = s.v := rfl
@[simp] theorem State.setSt_i (b : Byte) : (s.setSt b).i = s.i := rfl
@[simp] theorem State.setSt_pc (b : Byte) : (s.setSt b).pc = s.pc := rfl
@[simp] theorem State.setSt_sp (b : Byte) : (s.setSt b).sp = s.sp := rfl
@[simp] theorem State.setSt_dt (b : Byte) : (s.setSt b).dt = s.dt := rfl
@[simp] theorem State.setSt_st (b : Byte) : (s.setSt b).st = b := rfl
@[simp] theorem State.setSt_stk (b : Byte) : (s.setSt b).stk = s.stk := rfl
@[simp] theorem State.setSt_top (b : Byte) : (s.setSt b).top = s.top := rfl
@[simp] theorem State.setSt_mem (b : Byte) : (s.setSt b).mem = s.mem := rfl
@[simp] theorem State.setSt_lsz (b : Byte) : (s.setSt b).lsz = s.lsz := rfl
@[simp] theorem State.setSt_gfx (b : Byte) : (s.setSt b).gfx = s.gfx := rfl
@[simp] theorem State.setSt_kw (b : Byte) : (s.setSt b).kw = s.kw := rfl
@[simp] theorem State.setSt_flt (b : Byte) : (s.setSt b).flt = s.flt := rfl
@[simp] theorem State.setSt_ports (b : Byte) : (s.setSt b).ports = s.ports := rfl
@[simp] theorem State.setSt_releaseMatch (b : Byte) : (s.setSt b).releaseMatch = s.releaseMatch := rfl
@[simp] theorem State.setSt_agenda (b : Byte) : (s.setSt b).agenda = s.agenda := rfl
@[simp] theorem State.setSt_draws (b : Byte) : (s.setSt b).draws = s.draws := rfl
@[simp] theorem State.setSt_getV (b : Byte) (r : Reg) : (s.setSt b).getV r = s.getV r := rfl
@[simp] theorem State.setSt_valid (b : Byte) (n : Nat) : (s.setSt b).valid n = s.valid n := rfl

/-! ### State.setKw -/

@[simp] theorem State.setKw_v (k : KeyWait) : (s.setKw k).v = s.v := rfl
@[simp] theorem State.setKw_i (k : KeyWait) : (s.setKw k).i = s.i := rfl
@[simp] theorem State.setKw_pc (k : KeyWait) : (s.setKw k).pc = s.pc := rfl
@[simp] theorem State.setKw_sp (k : KeyWait) : (s.setKw k).sp = s.sp := rfl
@[simp] theorem State.setKw_dt (k : KeyWait) : (s.setKw k).dt = s.dt := rfl
@[simp] theorem State.setKw_st (k : KeyWait) : (s.setKw k).st = s.st := rfl
@[simp] theorem State.setKw_stk (k : KeyWait) : (s.setKw k).stk = s.stk := rfl
@[simp] theorem State.setKw_top (k : KeyWait) : (s.setKw k).top = s.top := rfl
@[simp] theorem State.setKw_mem (k : KeyWait) : (s.setKw k).mem = s.mem := rfl
@[simp] theorem State.setKw_lsz (k : KeyWait) : (s.setKw k).lsz = s.lsz := rfl
@[simp] theorem State.setKw_gfx (k : KeyWait) : (s.setKw k).gfx = s.gfx := rfl
@[simp] theorem State.setKw_kw (k : KeyWait) : (s.setKw k).kw = k := rfl
@[simp] theorem State.setKw_flt (k : KeyWait) : (s.setKw k).flt = s.flt := rfl
@[simp] theorem State.setKw_ports (k : KeyWait) : (s.setKw k).ports = s.ports := rfl
@[simp] theorem State.setKw_releaseMatch (k : KeyWait) : (s.setKw k).releaseMatch = s.releaseMatch := rfl
@[simp] theorem State.setKw_agenda (k : KeyWait) : (s.setKw k).agenda = s.agenda := rfl
@[simp] theorem State.setKw_draws (k : KeyWait) : (s.setKw k).draws = s.draws := rfl
@[simp] theorem State.setKw_getV (k : KeyWait) (r : Reg) : (s.setKw k).getV r = s.getV r := rfl
@[simp] theorem State.setKw_valid (k : KeyWait) (n : Nat) : (s.setKw k).valid n = s.valid n := rfl

/-! ### State.setGfx -/

@[simp] theorem State.setGfx_v (g : Grid) : (s.setGfx g).v = s.v := rfl
@[simp] theorem State.setGfx_i (g : Grid) : (s.setGfx g).i = s.i := rfl
@[simp] theorem State.setGfx_pc (g : Grid) : (s.setGfx g).pc = s.pc := rfl
@[simp] theorem State.setGfx_sp (g : Grid) : (s.setGfx g).sp = s.sp := rfl
@[simp] theorem State.setGfx_dt (g : Grid) : (s.setGfx g).dt = s.dt := rfl
@[simp] theorem State.setGfx_st (g : Grid) : (s.setGfx g).st = s.st := rfl
@[simp] theorem State.setGfx_stk (g : Grid) : (s.setGfx g).stk = s.stk := rfl
@[simp] theorem State.setGfx_top (g : Grid) : (s.setGfx g).top = s.top := rfl
@[simp] theorem State.setGfx_mem (g : Grid) : (s.setGfx g).mem = s.mem := rfl
@[simp] theorem State.setGfx_lsz (g : Grid) : (s.setGfx g).lsz = s.lsz := rfl
@[simp] theorem State.setGfx_gfx (g : Grid) : (s.setGfx g).gfx = g := rfl
@[simp] theorem State.setGfx_kw (g : Grid) : (s.setGfx g).kw = s.kw := rfl
@[simp] theorem State.setGfx_flt (g : Grid) : (s.setGfx g).flt = s.flt := rfl
@[simp] theorem State.setGfx_ports (g : Grid) : (s.setGfx g).ports = s.ports := rfl
@[simp] theorem State.setGfx_releaseMatch (g : Grid) : (s.setGfx g).releaseMatch = s.releaseMatch := rfl
@[simp] theorem State.setGfx_agenda (g : Grid) : (s.setGfx g).agenda = s.agenda := rfl
@[simp] theorem State.setGfx_draws (g : Grid) : (s.setGfx g).draws = s.draws := rfl
@[simp] theorem State.setGfx_getV (g : Grid) (r : Reg) : (s.setGfx g).getV r = s.getV r := rfl
@[simp] theorem State.setGfx_valid (g : Grid) (n : Nat) : (s.setGfx g).valid n = s.valid n := rfl

/-! ### State.setMem -/

@[simp] theorem State.setMem_v (m : Memory) : (s.setMem m).v = s.v := rfl
@[simp] theorem State.setMem_i (m : Memory) : (s.setMem m).i = s.i := rfl
@[simp] theorem State.setMem_pc (m : Memory) : (s.setMem m).pc = s.pc := rfl
@[simp] theorem State.setMem_sp (m : Memory) : (s.setMem m).sp = s.sp := rfl
@[simp] theorem State.setMem_dt (m : Memory) : (s.setMem m).dt = s.dt := rfl
@[simp] theorem State.setMem_st (m : Memory) : (s.setMem m).st = s.st := rfl
@[simp] theorem State.setMem_stk (m : Memory) : (s.setMem m).stk = s.stk := rfl
@[simp] theorem State.setMem_top (m : Memory) : (s.setMem m).top = s.top := rfl
@[simp] theorem State.setMem_mem (m : Memory) : (s.setMem m).mem = m := rfl
@[simp] theorem State.setMem_lsz (m : Memory) : (s.setMem m).lsz = s.lsz := rfl
@[simp] theorem State.setMem_gfx (m : Memory) : (s.setMem m).gfx = s.gfx := rfl
@[simp] theorem State.setMem_kw (m : Memory) : (s.setMem m).kw = s.kw := rfl
@[simp] theorem State.setMem_flt (m : Memory) : (s.setMem m).flt = s.flt := rfl
@[simp] theorem State.setMem_ports (m : Memory) : (s.setMem m).ports = s.ports := rfl
@[simp] theorem State.setMem_releaseMatch (m : Memory) : (s.setMem m).releaseMatch = s.releaseMatch := rfl
@[simp] theorem State.setMem_agenda (m : Memory) : (s.setMem m).agenda = s.agenda := rfl
@[simp] theorem State.setMem_draws (m : Memory) : (s.setMem m).draws = s.draws := rfl
@[simp] theorem State.setMem_getV (m : Memory) (r : Reg) : (s.setMem m).getV r = s.getV r := rfl
@[simp] theorem State.setMem_valid (m : Memory) (n : Nat) : (s.setMem m).valid n = s.valid n := rfl

/-! ### State.advance -/

@[simp] theorem State.advance_v : (s.advance).v = s.v := rfl
@[simp] theorem State.advance_i : (s.advance).i = s.i := rfl
@[simp] theorem State.advance_pc : (s.advance).pc = s.pc + 2 := rfl
@[simp] theorem State.advance_sp : (s.advance).sp = s.sp := rfl
@[simp] theorem State.advance_dt : (s.advance).dt = s.dt := rfl
@[simp] theorem State.advance_st : (s.advance).st = s.st := rfl
@[simp] theorem State.advance_stk : (s.advance).stk = s.stk := rfl
@[simp] theorem State.advance_top : (s.advance).top = s.top := rfl
@[simp] theorem State.advance_mem : (s.advance).mem = s.mem := rfl
@[simp] theorem State.advance_lsz : (s.advance).lsz = s.lsz := rfl
@[simp] theorem State.advance_gfx : (s.advance).gfx = s.gfx := rfl
@[simp] theorem State.advance_kw : (s.advance).kw = s.kw := rfl
@[simp] theorem State.advance_flt : (s.advance).flt = s.flt := rfl
@[simp] theorem State.advance_ports : (s.advance).ports = s.ports := rfl
@[simp] theorem State.advance_releaseMatch : (s.advance).releaseMatch = s.releaseMatch := rfl
@[simp] theorem State.advance_agenda : (s.advance).agenda = s.agenda := rfl
@[simp] theorem State.advance_draws : (s.advance).draws = s.draws := rfl
@[simp] theorem State.advance_getV (r : Reg) : (s.advance).getV r = s.getV r := rfl
@[simp] theorem State.advance_valid (n : Nat) : (s.advance).valid n = s.valid n := rfl

/-! ### State.rewind -/

@[simp] theorem State.rewind_v : (s.rewind).v = s.v := rfl
@[simp] theorem State.rewind_i : (s.rewind).i = s.i := rfl
@[simp] theorem State.rewind_pc : (s.rewind).pc = s.pc - 2 := rfl
@[simp] theorem State.rewind_sp : (s.rewind).sp = s.sp := rfl
@[simp] theorem State.rewind_dt : (s.rewind).dt = s.dt := rfl
@[simp] theorem State.rewind_st : (s.rewind).st = s.st := rfl
@[simp] theorem State.rewind_stk : (s.rewind).stk = s.stk := rfl
@[simp] theorem State.rewind_top : (s.rewind).top = s.top := rfl
@[simp] theorem State.rewind_mem : (s.rewind).mem = s.mem := rfl
@[simp] theorem State.rewind_lsz : (s.rewind).lsz = s.lsz := rfl
@[simp] theorem State.rewind_gfx : (s.rewind).gfx = s.gfx := rfl
@[simp] theorem State.rewind_kw : (s.rewind).kw = s.kw := rfl
@[simp] theorem State.rewind_flt : (s.rewind).flt = s.flt := rfl
@[simp] theorem State.rewind_ports : (s.rewind).ports = s.ports := rfl
@[simp] theorem State.rewind_releaseMatch : (s.rewind).releaseMatch = s.releaseMatch := rfl
@[simp] theorem State.rewind_agenda : (s.rewind).agenda = s.agenda := rfl
@[simp] theorem State.rewind_draws : (s.rewind).draws = s.draws := rfl
@[simp] theorem State.rewind_getV (r : Reg) : (s.rewind).getV r = s.getV r := rfl
@[simp] theorem State.rewind_valid (n : Nat) : (s.rewind).valid n = s.valid n := rfl

/-! ### State.raise -/

@[simp] theorem State.raise_v (c : Cause) (op : Word) (a : Nat) : (s.raise c op a).v = s.v := rfl
@[simp] theorem State.raise_i (c : Cause) (op : Word) (a : Nat) : (s.raise c op a).i = s.i := rfl
@[simp] theorem State.raise_pc (c : Cause) (op : Word) (a : Nat) : (s.raise c op a).pc = s.pc := rfl
@[simp] theorem State.raise_sp (c : Cause) (op : Word) (a : Nat) : (s.raise c op a).sp = s.sp := rfl
@[simp] theorem State.raise_dt (c : Cause) (op : Word) (a : Nat) : (s.raise c op a).dt = s.dt := rfl
@[simp] theorem State.raise_st (c : Cause) (op : Word) (a : Nat) : (s.raise c op a).st = s.st := rfl
@[simp] theorem State.raise_stk (c : Cause) (op : Word) (a : Nat) : (s.raise c op a).stk = s.stk := rfl
@[simp] theorem State.raise_top (c : Cause) (op : Word) (a : Nat) : (s.raise c op a).top = s.top := rfl
@[simp] theorem State.raise_mem (c : Cause) (op : Word) (a : Nat) : (s.raise c op a).mem = s.mem := rfl
@[simp] theorem State.raise_lsz (c : Cause) (op : Word) (a : Nat) : (s.raise c op a).lsz = s.lsz := rfl
@[simp] theorem State.raise_gfx (c : Cause) (op : Word) (a : Nat) : (s.raise c op a).gfx = s.gfx := rfl
@[simp] theorem State.raise_kw (c : Cause) (op : Word) (a : Nat) : (s.raise c op a).kw = s.kw := rfl
@[simp] theorem State.raise_flt (c : Cause) (op : Word) (a : Nat) : (s.raise c op a).flt = some ⟨c, op, BitVec.ofNat 17 a, s.pc⟩ := rfl
@[simp] theorem State.raise_ports (c : Cause) (op : Word) (a : Nat) : (s.raise c op a).ports = s.ports := rfl
@[simp] theorem State.raise_releaseMatch (c : Cause) (op : Word) (a : Nat) : (s.raise c op a).releaseMatch = s.releaseMatch := rfl
@[simp] theorem State.raise_agenda (c : Cause) (op : Word) (a : Nat) : (s.raise c op a).agenda = s.agenda := rfl
@[simp] theorem State.raise_draws (c : Cause) (op : Word) (a : Nat) : (s.raise c op a).draws = s.draws := rfl
@[simp] theorem State.raise_getV (c : Cause) (op : Word) (a : Nat) (r : Reg) : (s.raise c op a).getV r = s.getV r := rfl
@[simp] theorem State.raise_valid (c : Cause) (op : Word) (a : Nat) (n : Nat) : (s.raise c op a).valid n = s.valid n := rfl

/-! ### State.sampleRand -/

@[simp] theorem State.sampleRand_v : (s.sampleRand).v = s.v := rfl
@[simp] theorem State.sampleRand_i : (s.sampleRand).i = s.i := rfl
@[simp] theorem State.sampleRand_pc : (s.sampleRand).pc = s.pc := rfl
@[simp] theorem State.sampleRand_sp : (s.sampleRand).sp = s.sp := rfl
@[simp] theorem State.sampleRand_dt : (s.sampleRand).dt = s.dt := rfl
@[simp] theorem State.sampleRand_st : (s.sampleRand).st = s.st := rfl
@[simp] theorem State.sampleRand_stk : (s.sampleRand).stk = s.stk := rfl
@[simp] theorem State.sampleRand_top : (s.sampleRand).top = s.top := rfl
@[simp] theorem State.sampleRand_mem : (s.sampleRand).mem = s.mem := rfl
@[simp] theorem State.sampleRand_lsz : (s.sampleRand).lsz = s.lsz := rfl
@[simp] theorem State.sampleRand_gfx : (s.sampleRand).gfx = s.gfx := rfl
@[simp] theorem State.sampleRand_kw : (s.sampleRand).kw = s.kw := rfl
@[simp] theorem State.sampleRand_flt : (s.sampleRand).flt = s.flt := rfl
@[simp] theorem State.sampleRand_ports : (s.sampleRand).ports = { s.ports with rand := Config.randByte s.draws } := rfl
@[simp] theorem State.sampleRand_releaseMatch : (s.sampleRand).releaseMatch = s.releaseMatch := rfl
@[simp] theorem State.sampleRand_agenda : (s.sampleRand).agenda = s.agenda := rfl
@[simp] theorem State.sampleRand_draws : (s.sampleRand).draws = s.draws + 1 := rfl
@[simp] theorem State.sampleRand_getV (r : Reg) : (s.sampleRand).getV r = s.getV r := rfl
@[simp] theorem State.sampleRand_valid (n : Nat) : (s.sampleRand).valid n = s.valid n := rfl

/-! ### State.afterReset -/

@[simp] theorem State.afterReset_v : (s.afterReset).v = resetV := rfl
@[simp] theorem State.afterReset_i : (s.afterReset).i = resetI := rfl
@[simp] theorem State.afterReset_pc : (s.afterReset).pc = resetPc := rfl
@[simp] theorem State.afterReset_sp : (s.afterReset).sp = resetSp := rfl
@[simp] theorem State.afterReset_dt : (s.afterReset).dt = resetDt := rfl
@[simp] theorem State.afterReset_st : (s.afterReset).st = resetSt := rfl
@[simp] theorem State.afterReset_stk : (s.afterReset).stk = resetStk := rfl
@[simp] theorem State.afterReset_top : (s.afterReset).top = 0 := rfl
@[simp] theorem State.afterReset_mem : (s.afterReset).mem = Memory.initial s.mem.font := rfl
@[simp] theorem State.afterReset_lsz : (s.afterReset).lsz = 0 := rfl
@[simp] theorem State.afterReset_gfx : (s.afterReset).gfx = resetGfx := rfl
@[simp] theorem State.afterReset_kw : (s.afterReset).kw = .idle := rfl
@[simp] theorem State.afterReset_flt : (s.afterReset).flt = none := rfl
@[simp] theorem State.afterReset_ports : (s.afterReset).ports = s.ports := rfl
@[simp] theorem State.afterReset_releaseMatch : (s.afterReset).releaseMatch = s.releaseMatch := rfl
@[simp] theorem State.afterReset_agenda : (s.afterReset).agenda = s.agenda := rfl
@[simp] theorem State.afterReset_draws : (s.afterReset).draws = s.draws := rfl

/-! ### Registers after a register write -/

@[simp] theorem State.setV_getV_self (x : Reg) (b : Byte) : (s.setV x b).getV x = b := by
  simp [State.setV, State.getV]

theorem State.setV_getV (x r : Reg) (b : Byte) :
    (s.setV x b).getV r = if r = x then b else s.getV r := by
  by_cases h : r = x
  · subst h; simp
  · simp only [State.setV, State.getV, h, if_false]
    exact Vector.getElem_set_ne _ _ (fun e => h (Fin.ext e.symm))

theorem State.setV_getV_ne {x r : Reg} (h : r ≠ x) (b : Byte) : (s.setV x b).getV r = s.getV r := by
  simp [State.setV_getV, h]

/-- Two states with the same registers read the same. -/
theorem State.getV_of_v_eq {s t : State} (h : s.v = t.v) (r : Reg) : s.getV r = t.getV r := by
  simp [State.getV, h]

/-! ### State.skipIf, State.setResultAndFlag -/

/-- Everything a skip can do: `PC` advances by 2 exactly when the condition holds, and nothing else changes. -/
theorem State.skipIf_eq (c : Bool) :
    s.skipIf c = { s with pc := if c then s.pc + 2 else s.pc } := by
  cases c <;> rfl

/-- Everything a result with a flag can do: with `x = F` the flag wins (R171). -/
theorem State.setResultAndFlag_getV (x r : Reg) (res flag : Byte) :
    (s.setResultAndFlag x res flag).getV r =
      if r = regF then flag else if r = x then res else s.getV r := by
  simp [State.setResultAndFlag, State.setV_getV]

theorem State.setResultAndFlag_frame (x : Reg) (res flag : Byte) :
    s.setResultAndFlag x res flag = { s with v := (s.setResultAndFlag x res flag).v } := rfl

end Sys2Proof.Machine
end

