-- ==== Sys2Proof/Laws/Memory.lean ====
section
/-!
SUPPORT. The laws of main memory: a read after a write, and that every operation keeps the canonical form
(20_memory.md R61 to R63, R73).
-/

namespace Sys2Proof.Machine

/-! ### Lists of cells -/

theorem lookupCell_insertCell (a : Nat) (b : Byte) (cs : List Host.Cell) (a' : Nat) :
    lookupCell (insertCell a b cs) a' = if a' = a then some b else lookupCell cs a' := by
  induction cs with
  | nil => simp [insertCell, lookupCell, eq_comm]
  | cons c cs ih =>
    simp only [insertCell]
    split
    · simp [lookupCell, eq_comm]
    · split
      · rename_i hc
        by_cases h : a' = a
        · simp [lookupCell, h]
        · have h' : a ≠ a' := fun e => h e.symm
          simp [lookupCell, h, h', hc]
      · rename_i hc
        by_cases h : c.1 = a'
        · have : a' ≠ a := by omega
          simp [lookupCell, h, this]
        · simp [lookupCell, h, ih]

theorem lookupCell_eraseCell (a : Nat) (cs : List Host.Cell) (a' : Nat) :
    lookupCell (eraseCell a cs) a' = if a' = a then none else lookupCell cs a' := by
  induction cs with
  | nil => simp [eraseCell, lookupCell]
  | cons c cs ih =>
    simp only [eraseCell]
    split
    · rename_i hc
      by_cases h : a' = a
      · rw [ih]; simp [h]
      · have : c.1 ≠ a' := by omega
        simp [lookupCell, ih, h, this]
    · rename_i hc
      by_cases h : c.1 = a'
      · have : a' ≠ a := by omega
        simp [lookupCell, h, this]
      · simp [lookupCell, h, ih]

theorem cellsRise_mono {lo lo' : Nat} (h : lo ≤ lo') {cs : List Host.Cell} (hr : cellsRise lo' cs = true) :
    cellsRise lo cs = true := by
  cases cs with
  | nil => rfl
  | cons c cs =>
    simp only [cellsRise, Bool.and_eq_true, decide_eq_true_eq] at hr ⊢
    exact ⟨by omega, hr.2⟩

theorem cellsRise_insertCell (a : Nat) (b : Byte) (cs : List Host.Cell) (lo : Nat) (hlo : lo ≤ a)
    (hr : cellsRise lo cs = true) : cellsRise lo (insertCell a b cs) = true := by
  induction cs generalizing lo with
  | nil => simp [insertCell, cellsRise, hlo]
  | cons c cs ih =>
    simp only [cellsRise, Bool.and_eq_true, decide_eq_true_eq] at hr
    simp only [insertCell]
    split
    · simp only [cellsRise, Bool.and_eq_true, decide_eq_true_eq]
      exact ⟨hlo, by omega, hr.2⟩
    · split
      · rename_i hc
        simp only [cellsRise, Bool.and_eq_true, decide_eq_true_eq]
        exact ⟨hlo, hc ▸ hr.2⟩
      · simp only [cellsRise, Bool.and_eq_true, decide_eq_true_eq]
        exact ⟨hr.1, ih _ (by omega) hr.2⟩

theorem cellsRise_eraseCell (a : Nat) (cs : List Host.Cell) (lo : Nat) (hr : cellsRise lo cs = true) :
    cellsRise lo (eraseCell a cs) = true := by
  induction cs generalizing lo with
  | nil => rfl
  | cons c cs ih =>
    simp only [cellsRise, Bool.and_eq_true, decide_eq_true_eq] at hr
    simp only [eraseCell]
    split
    · exact ih _ (cellsRise_mono (by omega) hr.2)
    · simp only [cellsRise, Bool.and_eq_true, decide_eq_true_eq]
      exact ⟨hr.1, ih _ hr.2⟩

theorem mem_insertCell {a : Nat} {b : Byte} {cs : List Host.Cell} {c : Host.Cell}
    (h : c ∈ insertCell a b cs) : c = (a, b) ∨ c ∈ cs := by
  induction cs with
  | nil => simpa [insertCell] using h
  | cons d cs ih =>
    simp only [insertCell] at h
    split at h
    · simpa using h
    · split at h
      · rcases List.mem_cons.1 h with h | h
        · exact .inl h
        · exact .inr (List.mem_cons_of_mem _ h)
      · rcases List.mem_cons.1 h with h | h
        · exact .inr (by simp [h])
        · exact (ih h).imp_right (List.mem_cons_of_mem _)

theorem mem_eraseCell {a : Nat} {cs : List Host.Cell} {c : Host.Cell} (h : c ∈ eraseCell a cs) : c ∈ cs := by
  induction cs with
  | nil => exact h
  | cons d cs ih =>
    simp only [eraseCell] at h
    split at h
    · exact List.mem_cons_of_mem _ (ih h)
    · rcases List.mem_cons.1 h with h | h
      · simp [h]
      · exact List.mem_cons_of_mem _ (ih h)

/-! ### Main memory -/

@[simp] theorem Memory.write_font (m : Memory) (a : Nat) (b : Byte) : (m.write a b).font = m.font := by
  simp only [Memory.write]; split <;> rfl

@[simp] theorem Memory.write_background (m : Memory) (a : Nat) (b : Byte) (a' : Nat) :
    (m.write a b).background a' = m.background a' := by
  simp [Memory.background]

@[simp] theorem Memory.background_cells (m : Memory) (cs : List Host.Cell) (a : Nat) :
    Memory.background { m with cells := cs } a = m.background a := rfl

/-- A read after a write: the byte written at its address, what was there before everywhere else. -/
theorem Memory.read_write (m : Memory) (a : Nat) (b : Byte) (a' : Nat) :
    (m.write a b).read a' = if a' = a then b else m.read a' := by
  by_cases hb : b = m.background a
  · rw [Memory.write, if_pos hb]
    by_cases h : a' = a <;> simp [Memory.read, lookupCell_eraseCell, h, hb]
  · rw [Memory.write, if_neg hb]
    by_cases h : a' = a <;> simp [Memory.read, lookupCell_insertCell, h]

@[simp] theorem Memory.read_write_self (m : Memory) (a : Nat) (b : Byte) : (m.write a b).read a = b := by
  simp [Memory.read_write]

theorem Memory.read_write_ne (m : Memory) {a a' : Nat} (h : a' ≠ a) (b : Byte) :
    (m.write a b).read a' = m.read a' := by
  simp [Memory.read_write, h]

/-- Writing a byte inside the array keeps the canonical form. -/
theorem Memory.write_wf {m : Memory} (h : m.wf = true) {a : Nat} (ha : a < 4096) (b : Byte) :
    (m.write a b).wf = true := by
  simp only [Memory.wf, Bool.and_eq_true, List.all_eq_true, decide_eq_true_eq, bne_iff_ne] at h ⊢
  obtain ⟨hr, hc⟩ := h
  refine ⟨?_, fun c hm => ?_⟩
  · simp only [Memory.write]
    split
    · exact cellsRise_eraseCell a _ 0 hr
    · exact cellsRise_insertCell a b _ 0 (Nat.zero_le _) hr
  · rw [Memory.write_background]
    simp only [Memory.write] at hm
    split at hm
    · exact hc c (mem_eraseCell hm)
    · rename_i hb
      rcases mem_insertCell hm with e | hm
      · subst e; exact ⟨ha, hb⟩
      · exact hc c hm

@[simp] theorem Memory.writeBytes_font (m : Memory) (a : Nat) (bs : List Byte) :
    (m.writeBytes a bs).font = m.font := by
  induction bs generalizing m a with
  | nil => rfl
  | cons b bs ih => simp [Memory.writeBytes, ih]

/-- A read after consecutive writes: the byte of the list at its address, what was there before everywhere else. -/
theorem Memory.read_writeBytes (m : Memory) (a : Nat) (bs : List Byte) (a' : Nat) :
    (m.writeBytes a bs).read a' =
      if h : a ≤ a' ∧ a' - a < bs.length then bs[a' - a] else m.read a' := by
  induction bs generalizing m a with
  | nil => simp [Memory.writeBytes]
  | cons b bs ih =>
    simp only [Memory.writeBytes, ih, Memory.read_write, List.length_cons]
    by_cases h1 : a + 1 ≤ a' ∧ a' - (a + 1) < bs.length
    · have h2 : a ≤ a' ∧ a' - a < bs.length + 1 := by omega
      rw [dif_pos h1, dif_pos h2]
      have : a' - a = (a' - (a + 1)) + 1 := by omega
      simp [this]
    · rw [dif_neg h1]
      by_cases h : a' = a
      · subst h; simp
      · have h2 : ¬(a ≤ a' ∧ a' - a < bs.length + 1) := by omega
        rw [dif_neg h2, if_neg h]

theorem Memory.writeBytes_wf {m : Memory} (h : m.wf = true) {a : Nat} {bs : List Byte}
    (ha : a + bs.length ≤ 4096) : (m.writeBytes a bs).wf = true := by
  induction bs generalizing m a with
  | nil => exact h
  | cons b bs ih =>
    simp only [List.length_cons] at ha
    exact ih (Memory.write_wf h (by omega) b) (by omega)

theorem Memory.initial_wf (font : Vector Byte 80) : (Memory.initial font).wf = true := rfl

theorem Memory.read_initial (font : Vector Byte 80) (a : Nat) :
    (Memory.initial font).read a = (Memory.initial font).background a := rfl

/-! ### The bounds check -/

theorem State.valid_iff (s : State) (a : Nat) : s.valid a = true ↔ a < s.lsz.val := by
  simp [State.valid]

/-- A valid address lies inside the 4096-byte array. -/
theorem State.lt_of_valid {s : State} {a : Nat} (h : s.valid a = true) : a < 4096 := by
  have := (s.valid_iff a).1 h
  omega

/-- Everything a byte read can answer (R62). -/
theorem State.memRead_eq_some {s : State} {a : Nat} {b : Byte} :
    s.memRead a = some b ↔ a < s.lsz.val ∧ s.mem.read a = b := by
  simp [State.memRead, State.valid]

theorem State.memRead_eq_none {s : State} {a : Nat} : s.memRead a = none ↔ s.lsz.val ≤ a := by
  simp [State.memRead, State.valid]

/-- Everything a byte write can answer (R63). -/
theorem State.memWrite_eq_some {s t : State} {a : Nat} {b : Byte} :
    s.memWrite a b = some t ↔ a < s.lsz.val ∧ t = s.setMem (s.mem.write a b) := by
  simp [State.memWrite, State.valid, eq_comm]

theorem State.memWrite_eq_none {s : State} {a : Nat} {b : Byte} :
    s.memWrite a b = none ↔ s.lsz.val ≤ a := by
  simp [State.memWrite, State.valid]

end Sys2Proof.Machine
end

