-- ==== Sys2Proof/Laws/Ops.lean ====
section
/-!
SUPPORT. One lemma for each shared operation that says once everything it can do: the call stack, the block transfers,
the key-wait commit, the fetch, the execution step, the events.
-/

namespace Sys2Proof.Machine

/-! ### The call stack (10_state.md R28) -/

/-- Everything `push` can answer. -/
theorem State.push_eq_some {s t : State} {w : Word} :
    s.push w = some t ↔
      ∃ h : s.top.val < 16,
        t = { s with stk := s.stk.set s.top.val w, top := ⟨s.top.val + 1, by omega⟩ } := by
  unfold State.push
  split
  · rename_i h; simp [h, eq_comm]
  · rename_i h; simp [h]

theorem State.push_eq_none {s : State} {w : Word} : s.push w = none ↔ s.top.val = 16 := by
  unfold State.push
  split
  · simp; omega
  · simp; omega

/-- Everything `pop` can answer. -/
theorem State.pop_eq_some {s t : State} {w : Word} :
    s.pop = some (w, t) ↔
      ∃ h : 0 < s.top.val,
        w = s.stk[s.top.val - 1] ∧ t = { s with top := ⟨s.top.val - 1, by omega⟩ } := by
  unfold State.pop
  split
  · rename_i h; simp [h, eq_comm]
  · rename_i h; simp [h]

theorem State.pop_eq_none {s : State} : s.pop = none ↔ s.top.val = 0 := by
  unfold State.pop
  split
  · simp; omega
  · simp; omega

/-! ### Block transfers (43_memory_address.md R187) -/

/-- Everything `storeBytes` can do: all bytes when the last address is valid, else the bytes below `LSZ` and the fault
at the first address that is not valid. -/
theorem storeBytes_eq (op : Word) (s : State) (a : Nat) (bs : List Byte) (hne : bs ≠ []) :
    storeBytes op s a bs =
      if a + bs.length ≤ s.lsz.val then s.setMem (s.mem.writeBytes a bs)
      else (s.setMem (s.mem.writeBytes a (bs.take (s.lsz.val - a)))).raise (.memoryBoundsError .write) op
        (max a s.lsz.val) := by
  induction bs generalizing s a with
  | nil => exact absurd rfl hne
  | cons b bs ih =>
    simp only [storeBytes]
    by_cases ha : a < s.lsz.val
    · have hw : s.memWrite a b = some (s.setMem (s.mem.write a b)) := State.memWrite_eq_some.2 ⟨ha, rfl⟩
      rw [hw]
      dsimp only
      by_cases hbs : bs = []
      · subst hbs
        have : a + [b].length ≤ s.lsz.val := by simp; omega
        rw [if_pos this]
        rfl
      · rw [ih (s.setMem (s.mem.write a b)) (a + 1) hbs]
        simp only [State.setMem_lsz, State.setMem_mem, List.length_cons]
        have e1 : (a + 1 + bs.length ≤ s.lsz.val) = (a + (bs.length + 1) ≤ s.lsz.val) :=
          propext (by omega)
        have e2 : max (a + 1) s.lsz.val = max a s.lsz.val := by omega
        obtain ⟨d, hd⟩ : ∃ d, s.lsz.val - a = d + 1 := ⟨s.lsz.val - a - 1, by omega⟩
        have hd' : s.lsz.val - (a + 1) = d := by omega
        simp only [e1, e2, hd, hd', List.take_succ_cons]
        rfl
    · have hw : s.memWrite a b = none := State.memWrite_eq_none.2 (by omega)
      rw [hw]
      dsimp only
      have h1 : ¬(a + (b :: bs).length ≤ s.lsz.val) := by simp; omega
      have h2 : s.lsz.val - a = 0 := by omega
      have h3 : max a s.lsz.val = a := by omega
      rw [if_neg h1, h2, h3]
      rfl

/-- Registers loaded from ascending addresses, without the bounds check. -/
def setRegs (s : State) (a : Nat) : List Reg → State
  | [] => s
  | x :: xs => setRegs (s.setV x (s.mem.read a)) (a + 1) xs

theorem setRegs_frame (s : State) (a : Nat) (xs : List Reg) :
    setRegs s a xs = { s with v := (setRegs s a xs).v } := by
  induction xs generalizing s a with
  | nil => rfl
  | cons x xs ih => simp only [setRegs]; rw [ih]; rfl

theorem setRegs_getV (s : State) (a : Nat) (xs : List Reg) (hn : xs.Nodup) (r : Reg) :
    (setRegs s a xs).getV r = if r ∈ xs then s.mem.read (a + xs.idxOf r) else s.getV r := by
  induction xs generalizing s a with
  | nil => simp [setRegs]
  | cons x xs ih =>
    obtain ⟨hx, hn⟩ := List.nodup_cons.1 hn
    simp only [setRegs, ih _ _ hn, State.setV_mem, State.setV_getV]
    by_cases hr : r = x
    · subst hr; simp [hx]
    · have hr' : (x == r) = false := by simp [Ne.symm hr]
      by_cases hm : r ∈ xs <;> simp [hm, hr, List.idxOf_cons, hr', Nat.add_assoc, Nat.add_comm 1]

/-- Everything `loadRegs` can do: all registers when the last address is valid, else those whose address is below `LSZ`
and the fault at the first address that is not valid. -/
theorem loadRegs_eq (op : Word) (s : State) (a : Nat) (xs : List Reg) (hne : xs ≠ []) :
    loadRegs op s a xs =
      if a + xs.length ≤ s.lsz.val then setRegs s a xs
      else (setRegs s a (xs.take (s.lsz.val - a))).raise (.memoryBoundsError .read) op (max a s.lsz.val) := by
  induction xs generalizing s a with
  | nil => exact absurd rfl hne
  | cons x xs ih =>
    simp only [loadRegs]
    by_cases ha : a < s.lsz.val
    · have hw : s.memRead a = some (s.mem.read a) := State.memRead_eq_some.2 ⟨ha, rfl⟩
      rw [hw]
      dsimp only
      by_cases hxs : xs = []
      · subst hxs
        have : a + [x].length ≤ s.lsz.val := by simp; omega
        rw [if_pos this]
        rfl
      · rw [ih (s.setV x (s.mem.read a)) (a + 1) hxs]
        simp only [State.setV_lsz, List.length_cons]
        have e1 : (a + 1 + xs.length ≤ s.lsz.val) = (a + (xs.length + 1) ≤ s.lsz.val) :=
          propext (by omega)
        have e2 : max (a + 1) s.lsz.val = max a s.lsz.val := by omega
        obtain ⟨d, hd⟩ : ∃ d, s.lsz.val - a = d + 1 := ⟨s.lsz.val - a - 1, by omega⟩
        have hd' : s.lsz.val - (a + 1) = d := by omega
        simp only [e1, e2, hd, hd', List.take_succ_cons]
        rfl
    · have hw : s.memRead a = none := State.memRead_eq_none.2 (by omega)
      rw [hw]
      dsimp only
      have h1 : ¬(a + (x :: xs).length ≤ s.lsz.val) := by simp; omega
      have h2 : s.lsz.val - a = 0 := by omega
      have h3 : max a s.lsz.val = a := by omega
      rw [if_neg h1, h2, h3]
      rfl

/-! ### The registers of a block transfer -/

theorem regsUpTo_length (x : Reg) : (regsUpTo x).length = x.val + 1 := by
  simp [regsUpTo]

theorem regsUpTo_ne_nil (x : Reg) : regsUpTo x ≠ [] := by
  intro h
  have := regsUpTo_length x
  simp [h] at this

theorem mem_take_finRange (m : Nat) (r : Reg) : r ∈ (List.finRange 16).take m ↔ r.val < m := by
  rw [List.mem_take_iff_getElem]
  constructor
  · rintro ⟨j, hj, e⟩
    have : r.val = j := by rw [← e]; simp
    omega
  · intro h
    exact ⟨r.val, by simp; omega, by simp⟩

theorem nodup_take_finRange (m : Nat) : ((List.finRange 16).take m).Nodup :=
  (List.nodup_finRange 16).sublist (List.take_sublist _ _)

theorem idxOf_take_finRange (m : Nat) (r : Reg) (h : r.val < m) :
    ((List.finRange 16).take m).idxOf r = r.val := by
  have hl : r.val < ((List.finRange 16).take m).length := by simp; omega
  have e : ((List.finRange 16).take m)[r.val] = r := by simp
  conv_lhs => rw [← e]
  exact (nodup_take_finRange m).idxOf_getElem _ _

/-- What the first `m` registers hold after being loaded from ascending addresses. -/
theorem setRegs_take_finRange (s : State) (a m : Nat) (r : Reg) :
    (setRegs s a ((List.finRange 16).take m)).getV r =
      if r.val < m then s.mem.read (a + r.val) else s.getV r := by
  rw [setRegs_getV _ _ _ (nodup_take_finRange m)]
  by_cases h : r.val < m
  · simp [h, mem_take_finRange, idxOf_take_finRange m r h]
  · simp [h, mem_take_finRange]

theorem State.bytesUpTo_length (s : State) (x : Reg) : (s.bytesUpTo x).length = x.val + 1 := by
  simp [State.bytesUpTo, regsUpTo_length]

theorem State.bytesUpTo_ne_nil (s : State) (x : Reg) : s.bytesUpTo x ≠ [] := by
  simp [State.bytesUpTo, regsUpTo_ne_nil]

theorem State.bytesUpTo_getElem (s : State) (x : Reg) (j : Nat) (h : j < (s.bytesUpTo x).length) :
    (s.bytesUpTo x)[j] =
      s.getV ⟨j, by have := s.bytesUpTo_length x; omega⟩ := by
  simp [State.bytesUpTo, regsUpTo]

theorem bcdDigits_length (b : Byte) : (bcdDigits b).length = 3 := rfl

/-! ### Fetch and execution step (40_engine_step.md R120, R121) -/

/-- Everything the fetch can answer. -/
theorem State.fetch_cases (s : State) :
    (s.lsz.val ≤ s.pc.toNat ∧ s.fetch = .error s.pc.toNat) ∨
    (s.lsz.val = s.pc.toNat + 1 ∧ s.fetch = .error (s.pc.toNat + 1)) ∨
    (s.pc.toNat + 1 < s.lsz.val ∧
      s.fetch = .ok (opcodeOf (s.mem.read s.pc.toNat) (s.mem.read (s.pc.toNat + 1)))) := by
  unfold State.fetch
  rcases Nat.lt_or_ge s.pc.toNat s.lsz.val with h | h
  · rw [State.memRead_eq_some.2 ⟨h, rfl⟩]
    dsimp only
    rcases Nat.lt_or_ge (s.pc.toNat + 1) s.lsz.val with h' | h'
    · rw [State.memRead_eq_some.2 ⟨h', rfl⟩]
      exact .inr (.inr ⟨h', rfl⟩)
    · rw [State.memRead_eq_none.2 h']
      exact .inr (.inl ⟨by omega, rfl⟩)
  · rw [State.memRead_eq_none.2 h]
    exact .inl ⟨h, rfl⟩

/-- Everything an execution step can answer. -/
theorem engineStep_cases (s : State) :
    (s.flt ≠ none ∧ engineStep s = .next s) ∨
    (s.flt = none ∧ ∃ a, s.fetch = .error a ∧
      engineStep s = .next (s.raise (.memoryBoundsError .fetch) 0 a)) ∨
    (s.flt = none ∧ s.pc.toNat + 1 < s.lsz.val ∧ ∃ op e, s.fetch = .ok op ∧ decode op = .error e ∧
      engineStep s = .next (s.advance.raise .decodeError op (illegalCode e))) ∨
    (s.flt = none ∧ s.pc.toNat + 1 < s.lsz.val ∧ ∃ op i, s.fetch = .ok op ∧ decode op = .ok i ∧
      engineStep s = exec i s.advance) := by
  unfold engineStep
  cases hf : s.flt with
  | some f => exact .inl ⟨by simp, rfl⟩
  | none =>
    rcases s.fetch_cases with ⟨-, h⟩ | ⟨-, h⟩ | ⟨hb, h⟩
    · exact .inr (.inl ⟨rfl, _, h, by rw [h]⟩)
    · exact .inr (.inl ⟨rfl, _, h, by rw [h]⟩)
    · cases hd : decode (opcodeOf (s.mem.read s.pc.toNat) (s.mem.read (s.pc.toNat + 1))) with
      | error e => exact .inr (.inr (.inl ⟨rfl, hb, _, e, h, hd, by rw [h]; simp only [hd]⟩))
      | ok i => exact .inr (.inr (.inr ⟨rfl, hb, _, i, h, hd, by rw [h]; simp only [hd]⟩))

/-! ### Events (00_scope.md R6, 20_memory.md R77) -/

/-- Everything a load can answer. -/
theorem loadRom_cases (rom : List Byte) (s : State) :
    (s.lsz.val = 0 ∧ s.flt = none ∧ ∃ h : rom.length ≤ 3584,
      loadRom rom s =
        .next { s.setMem (s.mem.writeBytes 0x200 rom) with lsz := ⟨0x200 + rom.length, by omega⟩ }) ∨
    (s.lsz.val = 0 ∧ s.flt = none ∧ 3584 < rom.length ∧ loadRom rom s = .next s) ∨
    (¬(s.lsz.val = 0 ∧ s.flt = none) ∧ loadRom rom s = .fault .loadHasNoTransition) := by
  unfold loadRom
  split
  · rename_i h
    split
    · rename_i h'
      exact .inl ⟨h.1, h.2, h', rfl⟩
    · exact .inr (.inl ⟨h.1, h.2, by omega, rfl⟩)
  · rename_i h
    exact .inr (.inr ⟨h, rfl⟩)

theorem nextEvent_nil {s : State} (h : s.agenda = []) : nextEvent s = (.step, s) := by
  simp [nextEvent, h]

theorem nextEvent_cons {s : State} {e : Event} {rest : List Event} (h : s.agenda = e :: rest) :
    nextEvent s = (e, { s with agenda := rest }) := by
  simp [nextEvent, h]

/-- When a step comes next, the machine performs an execution step and uses the event up. -/
theorem step_of_stepComesNext {s : State} (h : stepComesNext s.agenda) :
    step s = engineStep { s with agenda := s.agenda.tail } := by
  rcases h with h | ⟨rest, h⟩
  · rw [step, nextEvent_nil h, h]
    show engineStep s = engineStep { s with agenda := [] }
    rw [← h]
  · rw [step, nextEvent_cons h, h]
    rfl

/-- One timer after one tick (44_timer_key.md R203). -/
theorem tickDown_toNat (b : Byte) : (tickDown b).toNat = b.toNat - 1 := by
  unfold tickDown
  split
  · rename_i h; simp [h]
  · rename_i h
    have : b.toNat ≠ 0 := fun e => h (BitVec.eq_of_toNat_eq (by simpa using e))
    rw [BitVec.toNat_sub]
    simp
    omega

/-- Everything a timer tick can do. -/
theorem timerTick_eq (s : State) :
    timerTick s = if s.flt = none then { s with dt := tickDown s.dt, st := tickDown s.st } else s := by
  unfold timerTick
  cases hf : s.flt with
  | some f => rfl
  | none => simp [State.setDt, State.setSt, hf]

end Sys2Proof.Machine
end

