-- ==== Sys2Proof/Laws/Draw.lean ====
section
/-!
SUPPORT. Everything the drawing operations can do, cell by cell (45_draw.md).
-/

namespace Sys2Proof.Machine

/-! ### Single cells -/

theorem pixelAt_of_out {g : Grid} {x y : Nat} (h : ¬(x < 64 ∧ y < 32)) : pixelAt g x y = false := by
  simp [pixelAt, h]

theorem pixelAt_clearGrid (x y : Nat) : pixelAt clearGrid x y = false := by
  unfold pixelAt clearGrid
  split <;> simp

theorem pixelAt_flipPixel (g : Grid) (x y x' y' : Nat) (hx : x < 64) (hy : y < 32) :
    pixelAt (flipPixel g x y) x' y' = (pixelAt g x' y' ^^ decide (x' = x ∧ y' = y)) := by
  have h : x < 64 ∧ y < 32 := ⟨hx, hy⟩
  unfold flipPixel
  rw [dif_pos h]
  by_cases hb : x' < 64 ∧ y' < 32
  · simp only [pixelAt, dif_pos hb, Vector.getElem_set]
    by_cases ey : y = y'
    · subst ey
      simp only [if_true, Vector.getElem_set]
      by_cases ex : x = x'
      · subst ex; simp
      · have : ¬(x' = x) := fun e => ex e.symm
        simp [ex, this]
    · have : ¬(y' = y) := fun e => ey e.symm
      simp [ey, this]
  · have : ¬(x' = x ∧ y' = y) := by omega
    rw [pixelAt_of_out hb, pixelAt_of_out hb]
    simp [this]

/-- Two grids with the same cells are equal. -/
theorem grid_ext {g g' : Grid} (h : ∀ x y, x < 64 → y < 32 → pixelAt g x y = pixelAt g' x y) : g = g' := by
  refine Vector.ext fun y hy => Vector.ext fun x hx => ?_
  have := h x y hx hy
  simpa [pixelAt, hx, hy] using this

/-! ### One sprite row (R222 to R224) -/

/-- The sprite row byte `row`, drawn from column `x0`, has a set bit on column `x` (R222). -/
def spriteBit (row : Byte) (x0 x : Nat) : Bool :=
  decide (x0 ≤ x ∧ x < x0 + 8) && row.getLsbD (7 - (x - x0))

theorem compositeBits_pixel (row : Byte) (x0 yy : Nat) (hy : yy < 32) (k : Nat) (hk : k ≤ 8) (g : Grid)
    (hit : Bool) (x y : Nat) (hx : x < 64) :
    pixelAt (compositeBits row x0 yy k (g, hit)).1 x y =
      (pixelAt g x y ^^ (decide (y = yy ∧ x0 + (8 - k) ≤ x) && spriteBit row x0 x)) := by
  induction k generalizing g hit with
  | zero =>
    have : (decide (y = yy ∧ x0 + (8 - 0) ≤ x) && spriteBit row x0 x) = false := by
      simp only [spriteBit]
      by_cases h : x0 + 8 ≤ x
      · have : ¬(x0 ≤ x ∧ x < x0 + 8) := by omega
        simp [this]
      · simp [h]
    simp only [compositeBits, this, Bool.xor_false]
  | succ k ih =>
    have e8 : 8 - (k + 1) = 7 - k := by omega
    simp only [compositeBits, e8]
    split
    · rename_i hc
      have : ¬(y = yy ∧ x0 + (7 - k) ≤ x) := by omega
      simp [this]
    · rename_i hc
      by_cases hx' : x = x0 + (7 - k)
      · have h1 : ¬(y = yy ∧ x0 + (8 - k) ≤ x) := by omega
        have h2 : 7 - (x - x0) = k := by omega
        have h3 : x0 ≤ x ∧ x < x0 + 8 := by omega
        have h4 : x0 + (7 - k) ≤ x := by omega
        split
        · rename_i hb
          rw [ih (by omega), pixelAt_flipPixel _ _ _ _ _ (by omega) hy]
          simp [h1, spriteBit, h2, h3, hb, ← hx']
        · rename_i hb
          rw [ih (by omega)]
          simp [h1, spriteBit, h2, h3, h4, hb]
      · have h1 : (decide (y = yy ∧ x0 + (8 - k) ≤ x) && spriteBit row x0 x) =
            (decide (y = yy ∧ x0 + (7 - k) ≤ x) && spriteBit row x0 x) := by
          have : (y = yy ∧ x0 + (8 - k) ≤ x) = (y = yy ∧ x0 + (7 - k) ≤ x) := propext (by omega)
          simp only [this]
        split
        · rw [ih (by omega), pixelAt_flipPixel _ _ _ _ _ (by omega) hy, h1]
          have : ¬(x = x0 + (7 - k) ∧ y = yy) := by omega
          simp [this]
        · rw [ih (by omega), h1]

theorem compositeBits_hit (row : Byte) (x0 yy : Nat) (hy : yy < 32) (k : Nat) (hk : k ≤ 8) (g : Grid)
    (hit : Bool) :
    (compositeBits row x0 yy k (g, hit)).2 = true ↔
      hit = true ∨ ∃ x, x < 64 ∧ x0 + (8 - k) ≤ x ∧ spriteBit row x0 x = true ∧ pixelAt g x yy = true := by
  induction k generalizing g hit with
  | zero =>
    simp only [compositeBits]
    refine ⟨.inl, ?_⟩
    rintro (h | ⟨x, -, h, hs, -⟩)
    · exact h
    · simp only [spriteBit, Bool.and_eq_true, decide_eq_true_eq] at hs
      omega
  | succ k ih =>
    have e8 : 8 - (k + 1) = 7 - k := by omega
    simp only [compositeBits, e8]
    split
    · rename_i hc
      refine ⟨.inl, ?_⟩
      rintro (h | ⟨x, hx, h, -⟩)
      · exact h
      · omega
    · rename_i hc
      have hbit : spriteBit row x0 (x0 + (7 - k)) = row.getLsbD k := by
        have h1 : 7 - (x0 + (7 - k) - x0) = k := by omega
        have h2 : x0 ≤ x0 + (7 - k) ∧ x0 + (7 - k) < x0 + 8 := by omega
        rw [spriteBit, h1, decide_eq_true h2, Bool.true_and]
      split
      · rename_i hb
        rw [ih (by omega)]
        constructor
        · rintro (h | ⟨x, hx, hle, hs, hp⟩)
          · rcases Bool.or_eq_true _ _ ▸ h with h | h
            · exact .inl h
            · exact .inr ⟨_, by omega, le_refl _, hbit.trans hb, h⟩
          · rw [pixelAt_flipPixel _ _ _ _ _ (by omega) hy] at hp
            have : ¬(x = x0 + (7 - k)) := by omega
            simp only [this, false_and, decide_false, Bool.xor_false] at hp
            exact .inr ⟨x, hx, by omega, hs, hp⟩
        · rintro (h | ⟨x, hx, hle, hs, hp⟩)
          · exact .inl (by simp [h])
          · by_cases hx' : x = x0 + (7 - k)
            · subst hx'; exact .inl (by simp [hp])
            · refine .inr ⟨x, hx, by omega, hs, ?_⟩
              rw [pixelAt_flipPixel _ _ _ _ _ (by omega) hy]
              simp [hx', hp]
      · rename_i hb
        rw [ih (by omega)]
        refine or_congr_right ⟨?_, ?_⟩
        · rintro ⟨x, hx, hle, h⟩; exact ⟨x, hx, by omega, h⟩
        · rintro ⟨x, hx, hle, hs, hp⟩
          have : x ≠ x0 + (7 - k) := by
            rintro rfl; exact hb (hbit ▸ hs)
          exact ⟨x, hx, by omega, hs, hp⟩

/-! ### All sprite rows (R223, R225, R226) -/

/-- Up to `k` sprite rows from address `a` composited from grid row `yy` on, without the bounds check. -/
def composeRows (m : Memory) (x0 : Nat) : Nat → Nat → Nat → Grid × Bool → Grid × Bool
  | 0, _, _, gh => gh
  | k + 1, yy, a, gh =>
    if yy > 31 then gh
    else composeRows m x0 k (yy + 1) (a + 1) (compositeBits (m.read a) x0 yy 8 gh)

theorem composeRows_pixel (m : Memory) (x0 k yy a : Nat) (g : Grid) (hit : Bool) (x y : Nat) (hx : x < 64)
    (hy : y < 32) :
    pixelAt (composeRows m x0 k yy a (g, hit)).1 x y =
      (pixelAt g x y ^^ (decide (yy ≤ y ∧ y < yy + k) && spriteBit (m.read (a + (y - yy))) x0 x)) := by
  induction k generalizing g hit yy a with
  | zero =>
    have : ¬(yy ≤ y ∧ y < yy + 0) := by omega
    simp only [composeRows, decide_eq_false this, Bool.false_and, Bool.xor_false]
  | succ k ih =>
    simp only [composeRows]
    split
    · have : ¬(yy ≤ y ∧ y < yy + (k + 1)) := by omega
      simp [this]
    · rename_i hyy
      rw [ih, compositeBits_pixel _ _ _ (by omega) 8 (le_refl _) _ _ _ _ hx]
      by_cases e : y = yy
      · subst e
        have h1 : ¬(y + 1 ≤ y ∧ y < y + 1 + k) := by omega
        have h2 : y ≤ y ∧ y < y + (k + 1) := by omega
        have h3 : spriteBit (m.read a) x0 x = (decide (x0 ≤ x) && spriteBit (m.read a) x0 x) := by
          by_cases h : x0 ≤ x <;> simp [spriteBit, h]
        simp [h2, ← h3]
      · have h1 : (yy + 1 ≤ y ∧ y < yy + 1 + k) = (yy ≤ y ∧ y < yy + (k + 1)) := propext (by omega)
        by_cases h : yy ≤ y
        · have h2 : a + 1 + (y - (yy + 1)) = a + (y - yy) := by omega
          simp only [h1, h2]
          simp [e]
        · have h1' : ¬(yy + 1 ≤ y ∧ y < yy + 1 + k) := by omega
          have h2' : ¬(yy ≤ y ∧ y < yy + (k + 1)) := by omega
          simp only [decide_eq_false h1', decide_eq_false h2', e, false_and, decide_false, Bool.false_and,
            Bool.xor_false]

theorem composeRows_hit (m : Memory) (x0 k yy a : Nat) (g : Grid) (hit : Bool) :
    (composeRows m x0 k yy a (g, hit)).2 = true ↔
      hit = true ∨ ∃ x y, x < 64 ∧ y < 32 ∧ yy ≤ y ∧ y < yy + k ∧
        spriteBit (m.read (a + (y - yy))) x0 x = true ∧ pixelAt g x y = true := by
  induction k generalizing g hit yy a with
  | zero =>
    simp only [composeRows]
    refine ⟨.inl, ?_⟩
    rintro (h | ⟨x, y, -, -, h1, h2, -⟩)
    · exact h
    · omega
  | succ k ih =>
    simp only [composeRows]
    split
    · refine ⟨.inl, ?_⟩
      rintro (h | ⟨x, y, -, h0, h1, h2, -⟩)
      · exact h
      · omega
    · rename_i hyy
      rw [ih, compositeBits_hit _ _ _ (by omega) 8 (le_refl _)]
      have other : ∀ x y, x < 64 → yy + 1 ≤ y →
          pixelAt (compositeBits (m.read a) x0 yy 8 (g, hit)).1 x y = pixelAt g x y := by
        intro x y hx h
        rw [compositeBits_pixel _ _ _ (by omega) 8 (le_refl _) _ _ _ _ hx]
        have : ¬(y = yy) := by omega
        simp [this]
      constructor
      · rintro ((h | ⟨x, hx, -, hs, hp⟩) | ⟨x, y, hx, hy, h1, h2, hs, hp⟩)
        · exact .inl h
        · exact .inr ⟨x, yy, hx, by omega, le_refl _, by omega, by simpa using hs, hp⟩
        · have e : a + 1 + (y - (yy + 1)) = a + (y - yy) := by omega
          exact .inr ⟨x, y, hx, hy, by omega, by omega, e ▸ hs, other x y hx h1 ▸ hp⟩
      · rintro (h | ⟨x, y, hx, hy, h1, h2, hs, hp⟩)
        · exact .inl (.inl h)
        · by_cases e : y = yy
          · subst e
            refine .inl (.inr ⟨x, hx, ?_, by simpa using hs, hp⟩)
            have := hs
            simp only [spriteBit, Bool.and_eq_true, decide_eq_true_eq] at this
            omega
          · have e' : a + (y - yy) = a + 1 + (y - (yy + 1)) := by omega
            exact .inr ⟨x, y, hx, hy, by omega, by omega, e' ▸ hs, (other x y hx (by omega)).symm ▸ hp⟩

/-- Everything `drawRows` can do. With `k` rows left and the next on grid row `yy`, `min k (32 - yy)` rows are drawn. If
their addresses are all valid the rows are composited and `VF` is the collision; otherwise the rows below `LSZ` are
composited and the first address that is not valid faults. -/
theorem drawRows_eq (op : Word) (x0 k yy a : Nat) (hit : Bool) (s : State) :
    drawRows op x0 k yy a hit s =
      if min k (32 - yy) = 0 ∨ a + min k (32 - yy) ≤ s.lsz.val then
        (s.setGfx (composeRows s.mem x0 k yy a (s.gfx, hit)).1).setV regF
          (flagByte (composeRows s.mem x0 k yy a (s.gfx, hit)).2)
      else
        (s.setGfx (composeRows s.mem x0 (s.lsz.val - a) yy a (s.gfx, hit)).1).raise (.memoryBoundsError .read) op
          (max a s.lsz.val) := by
  induction k generalizing yy a hit s with
  | zero => simp [drawRows, composeRows]; rfl
  | succ k ih =>
    simp only [drawRows]
    by_cases hy : yy > 31
    · have : min (k + 1) (32 - yy) = 0 := by omega
      simp [hy, this, composeRows]; rfl
    · rw [if_neg hy]
      by_cases ha : a < s.lsz.val
      · rw [State.memRead_eq_some.2 ⟨ha, rfl⟩]
        dsimp only
        rw [ih]
        simp only [State.setGfx_lsz, State.setGfx_mem, State.setGfx_gfx]
        have e1 : (min k (32 - (yy + 1)) = 0 ∨ a + 1 + min k (32 - (yy + 1)) ≤ s.lsz.val) =
            (min (k + 1) (32 - yy) = 0 ∨ a + min (k + 1) (32 - yy) ≤ s.lsz.val) := propext (by omega)
        have e2 : max (a + 1) s.lsz.val = max a s.lsz.val := by omega
        obtain ⟨d, hd⟩ : ∃ d, s.lsz.val - a = d + 1 := ⟨s.lsz.val - a - 1, by omega⟩
        have hd' : s.lsz.val - (a + 1) = d := by omega
        simp only [e1, e2, hd, hd', composeRows, hy, if_false]
        rfl
      · rw [State.memRead_eq_none.2 (by omega)]
        dsimp only
        have h1 : ¬(min (k + 1) (32 - yy) = 0 ∨ a + min (k + 1) (32 - yy) ≤ s.lsz.val) := by omega
        have h2 : s.lsz.val - a = 0 := by omega
        have h3 : max a s.lsz.val = a := by omega
        rw [if_neg h1, h2, h3]
        rfl

end Sys2Proof.Machine
end

