-- ==== Sys2Proof/Laws/Encoding.lean ====
section
/-!
SUPPORT. The value of each encoding format and of each decoder field as numbers (30_encoding.md R91, R92).
-/

namespace Sys2Proof

theorem append_toNat {m n : Nat} (a : BitVec m) (b : BitVec n) :
    (a ++ b).toNat = a.toNat * 2 ^ n + b.toNat := by
  rw [BitVec.toNat_append, ← Nat.shiftLeft_add_eq_or_of_lt b.isLt, Nat.shiftLeft_eq]

theorem regField_toNat (x : Reg) : (regField x).toNat = x.val := rfl

theorem encodeNnn_toNat (c : BitVec 4) (nnn : BitVec 12) :
    (encodeNnn c nnn).toNat = c.toNat * 4096 + nnn.toNat :=
  append_toNat c nnn

theorem encodeXnn_toNat (c : BitVec 4) (x : Reg) (nn : Byte) :
    (encodeXnn c x nn).toNat = c.toNat * 4096 + x.val * 256 + nn.toNat := by
  have h1 := append_toNat (c ++ regField x) nn
  have h2 := append_toNat c (regField x)
  rw [regField_toNat] at h2
  rw [h2] at h1
  refine h1.trans ?_
  omega

theorem encodeXyn_toNat (c : BitVec 4) (x y : Reg) (n : BitVec 4) :
    (encodeXyn c x y n).toNat = c.toNat * 4096 + x.val * 256 + y.val * 16 + n.toNat := by
  have h0 := append_toNat (c ++ regField x ++ regField y) n
  have h1 := append_toNat (c ++ regField x) (regField y)
  have h2 := append_toNat c (regField x)
  rw [regField_toNat] at h1 h2
  rw [h2] at h1
  rw [h1] at h0
  refine h0.trans ?_
  omega

theorem fieldUpper_toNat (op : Word) : (fieldUpper op).toNat = op.toNat / 4096 := by
  have := op.isLt
  simp [fieldUpper, BitVec.extractLsb'_toNat, Nat.shiftRight_eq_div_pow]
  omega

theorem fieldX_val (op : Word) : (fieldX op).val = op.toNat / 256 % 16 := by
  show (op.extractLsb' 8 4).toNat = _
  simp [BitVec.extractLsb'_toNat, Nat.shiftRight_eq_div_pow]

theorem fieldY_val (op : Word) : (fieldY op).val = op.toNat / 16 % 16 := by
  show (op.extractLsb' 4 4).toNat = _
  simp [BitVec.extractLsb'_toNat, Nat.shiftRight_eq_div_pow]

theorem fieldN_toNat (op : Word) : (fieldN op).toNat = op.toNat % 16 := by
  simp [fieldN, BitVec.extractLsb'_toNat]

theorem fieldNn_toNat (op : Word) : (fieldNn op).toNat = op.toNat % 256 := by
  simp [fieldNn, BitVec.extractLsb'_toNat]

theorem fieldNnn_toNat (op : Word) : (fieldNnn op).toNat = op.toNat % 4096 := by
  simp [fieldNnn, BitVec.extractLsb'_toNat]

/-! ### The fields of each format -/

@[simp] theorem fieldUpper_encodeNnn (c : BitVec 4) (nnn : BitVec 12) : fieldUpper (encodeNnn c nnn) = c := by
  have := nnn.isLt
  exact BitVec.eq_of_toNat_eq (by rw [fieldUpper_toNat, encodeNnn_toNat]; omega)

@[simp] theorem fieldNnn_encodeNnn (c : BitVec 4) (nnn : BitVec 12) : fieldNnn (encodeNnn c nnn) = nnn := by
  have := nnn.isLt
  exact BitVec.eq_of_toNat_eq (by rw [fieldNnn_toNat, encodeNnn_toNat]; omega)

@[simp] theorem fieldUpper_encodeXnn (c : BitVec 4) (x : Reg) (nn : Byte) :
    fieldUpper (encodeXnn c x nn) = c := by
  have := nn.isLt
  exact BitVec.eq_of_toNat_eq (by rw [fieldUpper_toNat, encodeXnn_toNat]; omega)

@[simp] theorem fieldX_encodeXnn (c : BitVec 4) (x : Reg) (nn : Byte) : fieldX (encodeXnn c x nn) = x := by
  have := nn.isLt
  exact Fin.ext (by rw [fieldX_val, encodeXnn_toNat]; omega)

@[simp] theorem fieldNn_encodeXnn (c : BitVec 4) (x : Reg) (nn : Byte) : fieldNn (encodeXnn c x nn) = nn := by
  have := nn.isLt
  exact BitVec.eq_of_toNat_eq (by rw [fieldNn_toNat, encodeXnn_toNat]; omega)

@[simp] theorem fieldUpper_encodeXyn (c : BitVec 4) (x y : Reg) (n : BitVec 4) :
    fieldUpper (encodeXyn c x y n) = c := by
  have := n.isLt
  exact BitVec.eq_of_toNat_eq (by rw [fieldUpper_toNat, encodeXyn_toNat]; omega)

@[simp] theorem fieldX_encodeXyn (c : BitVec 4) (x y : Reg) (n : BitVec 4) :
    fieldX (encodeXyn c x y n) = x := by
  have := n.isLt
  exact Fin.ext (by rw [fieldX_val, encodeXyn_toNat]; omega)

@[simp] theorem fieldY_encodeXyn (c : BitVec 4) (x y : Reg) (n : BitVec 4) :
    fieldY (encodeXyn c x y n) = y := by
  have := n.isLt
  exact Fin.ext (by rw [fieldY_val, encodeXyn_toNat]; omega)

@[simp] theorem fieldN_encodeXyn (c : BitVec 4) (x y : Reg) (n : BitVec 4) :
    fieldN (encodeXyn c x y n) = n := by
  have := n.isLt
  exact BitVec.eq_of_toNat_eq (by rw [fieldN_toNat, encodeXyn_toNat]; omega)

/-! ### A word is put together again from its fields -/

theorem encodeNnn_fields (op : Word) : encodeNnn (fieldUpper op) (fieldNnn op) = op :=
  BitVec.eq_of_toNat_eq (by rw [encodeNnn_toNat, fieldUpper_toNat, fieldNnn_toNat]; omega)

theorem encodeXnn_fields (op : Word) : encodeXnn (fieldUpper op) (fieldX op) (fieldNn op) = op :=
  BitVec.eq_of_toNat_eq (by rw [encodeXnn_toNat, fieldUpper_toNat, fieldX_val, fieldNn_toNat]; omega)

theorem encodeXyn_fields (op : Word) :
    encodeXyn (fieldUpper op) (fieldX op) (fieldY op) (fieldN op) = op :=
  BitVec.eq_of_toNat_eq (by
    rw [encodeXyn_toNat, fieldUpper_toNat, fieldX_val, fieldY_val, fieldN_toNat]; omega)

/-! ### Bytes in memory order -/

theorem opcodeOf_toNat (hi lo : Byte) : (opcodeOf hi lo).toNat = hi.toNat * 256 + lo.toNat :=
  append_toNat hi lo

@[simp] theorem opcodeOf_bytes (op : Word) : opcodeOf (op.extractLsb' 8 8) (op.extractLsb' 0 8) = op := by
  have := op.isLt
  refine BitVec.eq_of_toNat_eq ?_
  rw [opcodeOf_toNat]
  simp [BitVec.extractLsb'_toNat, Nat.shiftRight_eq_div_pow]
  omega

/-! ### Masking a word of a format -/

theorem and_append {m n : Nat} (a a' : BitVec m) (b b' : BitVec n) :
    (a ++ b) &&& (a' ++ b') = (a &&& a') ++ (b &&& b') := by
  simp

theorem nibble_and_ones (c : BitVec 4) : c &&& 0xF#4 = c := by
  revert c; decide

theorem byte_and_ones (b : Byte) : b &&& 0xFF#8 = b := by
  have := BitVec.and_allOnes (x := b)
  exact this

theorem regField_zero : regField 0 = 0x0#4 := rfl

/-- The mask of format `NNN` keeps the class (R107). -/
theorem encodeNnn_and_class (c : BitVec 4) (nnn : BitVec 12) : encodeNnn c nnn &&& 0xF000 = encodeNnn c 0 := by
  have h : (0xF000 : Word) = 0xF#4 ++ 0x000#12 := by decide
  rw [encodeNnn, h, and_append, nibble_and_ones, BitVec.and_zero]
  rfl

/-- The mask of format `XNN` keeps the class (R107). -/
theorem encodeXnn_and_class (c : BitVec 4) (x : Reg) (nn : Byte) :
    encodeXnn c x nn &&& 0xF000 = encodeXnn c 0 0 := by
  have h : (0xF000 : Word) = 0xF#4 ++ 0x0#4 ++ 0x00#8 := by decide
  rw [encodeXnn, h, and_append, and_append, nibble_and_ones, BitVec.and_zero, BitVec.and_zero]
  rfl

/-- The mask of format `XSS` keeps the class and the selector (R107). -/
theorem encodeXnn_and_selector (c : BitVec 4) (x : Reg) (nn : Byte) :
    encodeXnn c x nn &&& 0xF0FF = encodeXnn c 0 nn := by
  have h : (0xF0FF : Word) = 0xF#4 ++ 0x0#4 ++ 0xFF#8 := by decide
  rw [encodeXnn, h, and_append, and_append, nibble_and_ones, BitVec.and_zero, byte_and_ones]
  rfl

/-- The mask of formats `XY0` and `XYS` keeps the class and the selector (R107). -/
theorem encodeXyn_and_selector (c : BitVec 4) (x y : Reg) (n : BitVec 4) :
    encodeXyn c x y n &&& 0xF00F = encodeXyn c 0 0 n := by
  have h : (0xF00F : Word) = 0xF#4 ++ 0x0#4 ++ 0x0#4 ++ 0xF#4 := by decide
  rw [encodeXyn, h, and_append, and_append, and_append, nibble_and_ones, nibble_and_ones,
    BitVec.and_zero, BitVec.and_zero]
  rfl

/-- The mask of format `XYN` keeps the class (R107). -/
theorem encodeXyn_and_class (c : BitVec 4) (x y : Reg) (n : BitVec 4) :
    encodeXyn c x y n &&& 0xF000 = encodeXyn c 0 0 0 := by
  have h : (0xF000 : Word) = 0xF#4 ++ 0x0#4 ++ 0x0#4 ++ 0x0#4 := by decide
  rw [encodeXyn, h, and_append, and_append, and_append, nibble_and_ones,
    BitVec.and_zero, BitVec.and_zero, BitVec.and_zero]
  rfl

end Sys2Proof
end

