-- ==== Sys2Proof/Laws/PerInstr.lean ====
section
/-!
SUPPORT. Statements about every instruction as syntax, one lemma per constructor. Family `RowOf`: the instruction's word
selects the row of spec/opcode_table.json that bears its mnemonic (30_encoding.md R107).
-/

namespace Sys2Proof.Laws.RowOf

/-- Some row with the instruction's mnemonic is selected by the instruction's word. -/
def Statement (i : Instr) : Prop :=
  ∃ row ∈ opcodeTable, row.1 = i.mnemonic ∧ rowSelects row (encode i) = true

theorem cls : Statement .cls :=
  ⟨("CLS", 0xFFFF, 0x00E0), by decide, rfl, by decide⟩

theorem ret : Statement .ret :=
  ⟨("RET", 0xFFFF, 0x00EE), by decide, rfl, by decide⟩

theorem jpNnn (nnn : BitVec 12) : Statement (.jpNnn nnn) :=
  ⟨("JP_NNN", 0xF000, 0x1000), by decide, rfl, beq_iff_eq.2 (encodeNnn_and_class _ _)⟩

theorem callNnn (nnn : BitVec 12) : Statement (.callNnn nnn) :=
  ⟨("CALL_NNN", 0xF000, 0x2000), by decide, rfl, beq_iff_eq.2 (encodeNnn_and_class _ _)⟩

theorem seVxNn (x : Reg) (nn : Byte) : Statement (.seVxNn x nn) :=
  ⟨("SE_VX_NN", 0xF000, 0x3000), by decide, rfl, beq_iff_eq.2 (encodeXnn_and_class _ _ _)⟩

theorem sneVxNn (x : Reg) (nn : Byte) : Statement (.sneVxNn x nn) :=
  ⟨("SNE_VX_NN", 0xF000, 0x4000), by decide, rfl, beq_iff_eq.2 (encodeXnn_and_class _ _ _)⟩

theorem seVxVy (x : Reg) (y : Reg) : Statement (.seVxVy x y) :=
  ⟨("SE_VX_VY", 0xF00F, 0x5000), by decide, rfl, beq_iff_eq.2 (encodeXyn_and_selector _ _ _ _)⟩

theorem ldVxNn (x : Reg) (nn : Byte) : Statement (.ldVxNn x nn) :=
  ⟨("LD_VX_NN", 0xF000, 0x6000), by decide, rfl, beq_iff_eq.2 (encodeXnn_and_class _ _ _)⟩

theorem addVxNn (x : Reg) (nn : Byte) : Statement (.addVxNn x nn) :=
  ⟨("ADD_VX_NN", 0xF000, 0x7000), by decide, rfl, beq_iff_eq.2 (encodeXnn_and_class _ _ _)⟩

theorem ldVxVy (x : Reg) (y : Reg) : Statement (.ldVxVy x y) :=
  ⟨("LD_VX_VY", 0xF00F, 0x8000), by decide, rfl, beq_iff_eq.2 (encodeXyn_and_selector _ _ _ _)⟩

theorem orVxVy (x : Reg) (y : Reg) : Statement (.orVxVy x y) :=
  ⟨("OR_VX_VY", 0xF00F, 0x8001), by decide, rfl, beq_iff_eq.2 (encodeXyn_and_selector _ _ _ _)⟩

theorem andVxVy (x : Reg) (y : Reg) : Statement (.andVxVy x y) :=
  ⟨("AND_VX_VY", 0xF00F, 0x8002), by decide, rfl, beq_iff_eq.2 (encodeXyn_and_selector _ _ _ _)⟩

theorem xorVxVy (x : Reg) (y : Reg) : Statement (.xorVxVy x y) :=
  ⟨("XOR_VX_VY", 0xF00F, 0x8003), by decide, rfl, beq_iff_eq.2 (encodeXyn_and_selector _ _ _ _)⟩

theorem addVxVy (x : Reg) (y : Reg) : Statement (.addVxVy x y) :=
  ⟨("ADD_VX_VY", 0xF00F, 0x8004), by decide, rfl, beq_iff_eq.2 (encodeXyn_and_selector _ _ _ _)⟩

theorem subVxVy (x : Reg) (y : Reg) : Statement (.subVxVy x y) :=
  ⟨("SUB_VX_VY", 0xF00F, 0x8005), by decide, rfl, beq_iff_eq.2 (encodeXyn_and_selector _ _ _ _)⟩

theorem shrVx (x : Reg) (y : Reg) : Statement (.shrVx x y) :=
  ⟨("SHR_VX", 0xF00F, 0x8006), by decide, rfl, beq_iff_eq.2 (encodeXyn_and_selector _ _ _ _)⟩

theorem subnVxVy (x : Reg) (y : Reg) : Statement (.subnVxVy x y) :=
  ⟨("SUBN_VX_VY", 0xF00F, 0x8007), by decide, rfl, beq_iff_eq.2 (encodeXyn_and_selector _ _ _ _)⟩

theorem shlVx (x : Reg) (y : Reg) : Statement (.shlVx x y) :=
  ⟨("SHL_VX", 0xF00F, 0x800E), by decide, rfl, beq_iff_eq.2 (encodeXyn_and_selector _ _ _ _)⟩

theorem sneVxVy (x : Reg) (y : Reg) : Statement (.sneVxVy x y) :=
  ⟨("SNE_VX_VY", 0xF00F, 0x9000), by decide, rfl, beq_iff_eq.2 (encodeXyn_and_selector _ _ _ _)⟩

theorem ldINnn (nnn : BitVec 12) : Statement (.ldINnn nnn) :=
  ⟨("LD_I_NNN", 0xF000, 0xA000), by decide, rfl, beq_iff_eq.2 (encodeNnn_and_class _ _)⟩

theorem jpV0Nnn (nnn : BitVec 12) : Statement (.jpV0Nnn nnn) :=
  ⟨("JP_V0_NNN", 0xF000, 0xB000), by decide, rfl, beq_iff_eq.2 (encodeNnn_and_class _ _)⟩

theorem rndVxNn (x : Reg) (nn : Byte) : Statement (.rndVxNn x nn) :=
  ⟨("RND_VX_NN", 0xF000, 0xC000), by decide, rfl, beq_iff_eq.2 (encodeXnn_and_class _ _ _)⟩

theorem drwVxVyN (x : Reg) (y : Reg) (n : BitVec 4) : Statement (.drwVxVyN x y n) :=
  ⟨("DRW_VX_VY_N", 0xF000, 0xD000), by decide, rfl, beq_iff_eq.2 (encodeXyn_and_class _ _ _ _)⟩

theorem skpVx (x : Reg) : Statement (.skpVx x) :=
  ⟨("SKP_VX", 0xF0FF, 0xE09E), by decide, rfl, beq_iff_eq.2 (encodeXnn_and_selector _ _ _)⟩

theorem sknpVx (x : Reg) : Statement (.sknpVx x) :=
  ⟨("SKNP_VX", 0xF0FF, 0xE0A1), by decide, rfl, beq_iff_eq.2 (encodeXnn_and_selector _ _ _)⟩

theorem ldVxDt (x : Reg) : Statement (.ldVxDt x) :=
  ⟨("LD_VX_DT", 0xF0FF, 0xF007), by decide, rfl, beq_iff_eq.2 (encodeXnn_and_selector _ _ _)⟩

theorem ldVxK (x : Reg) : Statement (.ldVxK x) :=
  ⟨("LD_VX_K", 0xF0FF, 0xF00A), by decide, rfl, beq_iff_eq.2 (encodeXnn_and_selector _ _ _)⟩

theorem ldDtVx (x : Reg) : Statement (.ldDtVx x) :=
  ⟨("LD_DT_VX", 0xF0FF, 0xF015), by decide, rfl, beq_iff_eq.2 (encodeXnn_and_selector _ _ _)⟩

theorem ldStVx (x : Reg) : Statement (.ldStVx x) :=
  ⟨("LD_ST_VX", 0xF0FF, 0xF018), by decide, rfl, beq_iff_eq.2 (encodeXnn_and_selector _ _ _)⟩

theorem addIVx (x : Reg) : Statement (.addIVx x) :=
  ⟨("ADD_I_VX", 0xF0FF, 0xF01E), by decide, rfl, beq_iff_eq.2 (encodeXnn_and_selector _ _ _)⟩

theorem ldFVx (x : Reg) : Statement (.ldFVx x) :=
  ⟨("LD_F_VX", 0xF0FF, 0xF029), by decide, rfl, beq_iff_eq.2 (encodeXnn_and_selector _ _ _)⟩

theorem ldBVx (x : Reg) : Statement (.ldBVx x) :=
  ⟨("LD_B_VX", 0xF0FF, 0xF033), by decide, rfl, beq_iff_eq.2 (encodeXnn_and_selector _ _ _)⟩

theorem ldMiVx (x : Reg) : Statement (.ldMiVx x) :=
  ⟨("LD_MI_VX", 0xF0FF, 0xF055), by decide, rfl, beq_iff_eq.2 (encodeXnn_and_selector _ _ _)⟩

theorem ldVxMi (x : Reg) : Statement (.ldVxMi x) :=
  ⟨("LD_VX_MI", 0xF0FF, 0xF065), by decide, rfl, beq_iff_eq.2 (encodeXnn_and_selector _ _ _)⟩

end Sys2Proof.Laws.RowOf
end

