-- ==== Sys2Proof/Tests/Slice0.lean ====
section
/-!
SUPPORT. Tests. The expected results are those of spec/95_test_vectors.md (cited as T-…) or worked by hand from the rules;
then one witness for every statement that has hypotheses: a concrete state and operands that meet all of them.
-/

namespace Sys2Proof.Tests

open Sys2Proof Sys2Proof.Machine

/-! ### Helpers -/

/-- The state after reset and a load of the bytes (the start state of the vectors). -/
def booted (rom : List Byte) : State :=
  match loadRom rom State.reset with
  | .next t => t
  | _ => State.reset

/-- One step answers a next state that satisfies `p`. -/
def ran (s : State) (p : State → Bool) : Bool :=
  match step s with
  | .next t => p t
  | _ => false

/-- The cells at these columns and rows are set. -/
def allSet (s : State) (cells : List (Nat × Nat)) : Bool := cells.all fun c => pixelAt s.gfx c.1 c.2

/-- The cells at these columns and rows are clear. -/
def allClear (s : State) (cells : List (Nat × Nat)) : Bool := cells.all fun c => !pixelAt s.gfx c.1 c.2

/-- The fault record is exactly this one. -/
def faulted (s : State) (cause : Cause) (opcode : Word) (addr : BitVec 17) (pc : Word) : Bool :=
  s.flt == some { cause := cause, opcode := opcode, addr := addr, pc := pc }

/-- The state with these key inputs presented. -/
def withKeys (s : State) (down up : Option Key) : State :=
  { s with ports := { s.ports with keyDown := down, keyUp := up } }

/-- The state with this key of the vector pressed. -/
def pressing (s : State) (k : Key) : State :=
  { s with ports := { s.ports with keys := s.ports.keys.set k true } }

/-- The state with this random byte presented. -/
def withRand (s : State) (b : Byte) : State := { s with ports := { s.ports with rand := b } }

/-- The state with these live return addresses, oldest first, all equal. -/
def stacked (s : State) (n : Fin 17) (w : Word) : State :=
  { s with stk := Vector.replicate 16 w, top := n, sp := BitVec.ofNat 8 n.val }

/-! ### Well-formedness: the one check is the size of a ROM image (20_memory.md R77) -/

theorem test_rom_too_long : romWellFormed (List.replicate 3585 0) = false := by
  unfold romWellFormed
  rw [List.length_replicate]
  decide

theorem test_rom_longest : romWellFormed (List.replicate 3584 0) = true := by
  unfold romWellFormed
  rw [List.length_replicate]
  decide

theorem test_rom_empty : romWellFormed [] = true := by decide

/-! ### Decoding: one word of every constructor, written out from 30_encoding.md R95 to R99 and T-ENC-1 -/

theorem test_decode_class0 :
    decode 0b0000000011100000 = .ok .cls ∧ decode 0b0000000011101110 = .ok .ret := by decide

theorem test_decode_jumps :
    decode 0b0001001000110100 = .ok (.jpNnn 0x234) ∧ decode 0b0010001101000101 = .ok (.callNnn 0x345) ∧
    decode 0b1011111111111111 = .ok (.jpV0Nnn 0xFFF) := by decide

theorem test_decode_skips :
    decode 0b0011111100000001 = .ok (.seVxNn 0xF 0x01) ∧ decode 0b0100000100010010 = .ok (.sneVxNn 1 0x12) ∧
    decode 0b0101000100100000 = .ok (.seVxVy 1 2) ∧ decode 0b1001001100010000 = .ok (.sneVxVy 3 1) := by decide

theorem test_decode_immediates :
    decode 0b0110101001111111 = .ok (.ldVxNn 0xA 0x7F) ∧ decode 0b0111000100000010 = .ok (.addVxNn 1 2) ∧
    decode 0b1010111111111111 = .ok (.ldINnn 0xFFF) ∧ decode 0b1100000100001111 = .ok (.rndVxNn 1 0x0F) := by decide

theorem test_decode_class8_low :
    decode 0b1000000100100000 = .ok (.ldVxVy 1 2) ∧ decode 0b1000000100100001 = .ok (.orVxVy 1 2) ∧
    decode 0b1000000100100010 = .ok (.andVxVy 1 2) ∧ decode 0b1000000100100011 = .ok (.xorVxVy 1 2) ∧
    decode 0b1000101010110100 = .ok (.addVxVy 0xA 0xB) := by decide

theorem test_decode_class8_high :
    decode 0b1000000100100101 = .ok (.subVxVy 1 2) ∧ decode 0b1000110010010110 = .ok (.shrVx 0xC 9) ∧
    decode 0b1000000100100111 = .ok (.subnVxVy 1 2) ∧ decode 0b1000000100101110 = .ok (.shlVx 1 2) := by decide

theorem test_decode_draw_and_keys :
    decode 0b1101011111110101 = .ok (.drwVxVyN 7 0xF 5) ∧ decode 0b1110000110011110 = .ok (.skpVx 1) ∧
    decode 0b1110000010100001 = .ok (.sknpVx 0) := by decide

theorem test_decode_classF_registers :
    decode 0b1111001100000111 = .ok (.ldVxDt 3) ∧ decode 0b1111000100001010 = .ok (.ldVxK 1) ∧
    decode 0b1111001100010101 = .ok (.ldDtVx 3) ∧ decode 0b1111001100011000 = .ok (.ldStVx 3) ∧
    decode 0b1111000100011110 = .ok (.addIVx 1) := by decide

theorem test_decode_classF_memory :
    decode 0b1111000100101001 = .ok (.ldFVx 1) ∧ decode 0b1111000000110011 = .ok (.ldBVx 0) ∧
    decode 0b1111001001010101 = .ok (.ldMiVx 2) ∧ decode 0b1111001101100101 = .ok (.ldVxMi 3) := by decide

/-- T-ENC-2. -/
theorem test_decode_illegal :
    decode 0x0000 = .error .unknownOpcode ∧ decode 0x00E1 = .error .unknownOpcode ∧
    decode 0x0123 = .error .unknownOpcode ∧ decode 0x5121 = .error .malformedOpcode ∧
    decode 0x9121 = .error .malformedOpcode ∧ decode 0x8128 = .error .unknownOperation ∧
    decode 0x812F = .error .unknownOperation ∧ decode 0xE100 = .error .unknownOpcode ∧
    decode 0xE19F = .error .unknownOpcode ∧ decode 0xF100 = .error .unknownOpcode ∧
    decode 0xF175 = .error .unknownOpcode ∧ decode 0xFFFF = .error .unknownOpcode := by decide

/-- Two bytes are consumed, the first being the high one; one byte is no instruction. -/
theorem test_decode_bytes :
    decodeBytes [0x12, 0x34, 0x56] = .ok (.jpNnn 0x234, [0x56]) ∧ decodeBytes [0x12] = .error .truncated ∧
    decodeBytes [0x00, 0x00] = .error (.illegal .unknownOpcode) := by
  refine ⟨by rfl, by rfl, by rfl⟩

theorem test_encode_words :
    encode (.drwVxVyN 7 0xF 5) = 0xD7F5 ∧ encode (.shrVx 0xC 9) = 0x8C96 ∧ encode (.ldVxMi 3) = 0xF365 ∧
    encode (.jpV0Nnn 0xFFF) = 0xBFFF := by decide

theorem test_decodeTableWord :
    decodeTableWord 16 0x8AB4 = some (.addVxVy 0xA 0xB) ∧ decodeTableWord 16 0x0000 = none := by decide

/-- A word placed right after reset is what the next step runs. -/
theorem test_withFetchWord : ran (State.reset.withFetchWord 16 0x6012) (fun t => t.getV 0 == 0x12 && t.pc == 0x202) = true := by
  decide

/-! ### Step and fetch -/

/-- T-ENC-2 as a step, and T-FLT-1. -/
theorem test_step_illegal :
    ran (booted [0x81, 0x28]) (fun t => t.pc == 0x202 && faulted t .decodeError 0x8128 1 0x202) = true ∧
    ran State.reset (fun t => t.pc == 0x200 && faulted t (.memoryBoundsError .fetch) 0 0x200 0x200) = true := by
  decide

/-- T-FLT-3. -/
theorem test_step_one_byte_rom :
    ran (booted [0x00]) (fun t => t.pc == 0x200 && faulted t (.memoryBoundsError .fetch) 0 0x201 0x200) = true := by
  decide

/-- T-STEP-2, from its second step on: fetch at an odd address. -/
theorem test_step_odd_address :
    ran ((booted [0x12, 0x03, 0x00, 0x61, 0x07]).setPc 0x203) (fun t => t.getV 1 == 7 && t.pc == 0x205) = true := by
  decide

/-! ### Control flow -/

/-- T-CF-1, T-CF-2. -/
theorem test_jp : ran (booted [0x12, 0x34]) (fun t => t.pc == 0x234) = true ∧
    ran (booted [0x12, 0x00]) (fun t => t.pc == 0x200) = true := by decide

/-- T-CF-4, T-CF-5. -/
theorem test_jp_v0 : ran ((booted [0xBF, 0xFF]).setV 0 0xFF) (fun t => t.pc == 0x10FE) = true ∧
    ran ((booted [0xB2, 0x10]).setV 2 0x40) (fun t => t.pc == 0x210) = true := by decide

/-- T-CF-6. -/
theorem test_call : ran (booted [0x23, 0x45])
    (fun t => t.stk[0] == 0x202 && t.top == 1 && t.sp == 1 && t.pc == 0x345) = true := by decide

/-- T-CF-10. -/
theorem test_call_overflow : ran (stacked (booted [0x22, 0x00]) 16 0x202)
    (fun t => t.pc == 0x202 && faulted t .stackOverflow 0x2200 0x202 0x202 && t.top == 16 && t.sp == 16) = true := by
  decide

/-- T-CF-7. -/
theorem test_ret : ran (stacked (booted [0x00, 0xEE]) 1 0x0ABC)
    (fun t => t.pc == 0x0ABC && t.top == 0 && t.sp == 0) = true := by decide

/-- T-CF-8. -/
theorem test_ret_underflow : ran (booted [0x00, 0xEE])
    (fun t => t.pc == 0x202 && faulted t .stackUnderflow 0x00EE 0 0x202) = true := by decide

/-- T-SRC-5, T-CF-11. -/
theorem test_se_nn : ran ((booted [0x31, 0x12]).setV 1 0x12) (fun t => t.pc == 0x204) = true ∧
    ran ((booted [0x31, 0x12]).setV 1 0x13) (fun t => t.pc == 0x202) = true := by decide

/-- T-CF-12, T-CF-13. -/
theorem test_sne_nn : ran ((booted [0x41, 0x12]).setV 1 0x12) (fun t => t.pc == 0x202) = true ∧
    ran ((booted [0x41, 0x13]).setV 1 0x12) (fun t => t.pc == 0x204) = true := by decide

/-- T-CF-15, T-CF-16. -/
theorem test_se_vy : ran (((booted [0x51, 0x20]).setV 1 7).setV 2 8) (fun t => t.pc == 0x202) = true ∧
    ran ((booted [0x53, 0x30]).setV 3 0x99) (fun t => t.pc == 0x204) = true := by decide

/-- T-CF-17, T-CF-19. -/
theorem test_sne_vy : ran (((booted [0x91, 0x20]).setV 1 7).setV 2 8) (fun t => t.pc == 0x204) = true ∧
    ran ((booted [0x93, 0x30]).setV 3 0x99) (fun t => t.pc == 0x202) = true := by decide

/-! ### Registers and arithmetic -/

/-- T-ALU-1. -/
theorem test_ld_nn : ran (booted [0x6A, 0x7F]) (fun t => t.getV 0xA == 0x7F && t.pc == 0x202) = true := by decide

/-- T-ALU-2, T-ALU-21. -/
theorem test_add_nn :
    ran (((booted [0x71, 0x02]).setV 1 0xFF).setV 0xF 0x55) (fun t => t.getV 1 == 1 && t.getV 0xF == 0x55) = true ∧
    ran ((booted [0x7F, 0x01]).setV 0xF 0xFF) (fun t => t.getV 0xF == 0) = true := by decide

/-- T-ALU-3. -/
theorem test_ld_vy : ran (((booted [0x81, 0x20]).setV 1 1).setV 2 0xAB)
    (fun t => t.getV 1 == 0xAB && t.getV 2 == 0xAB) = true := by decide

/-- T-ALU-4. -/
theorem test_or : ran ((((booted [0x81, 0x21]).setV 1 0xF0).setV 2 0x0F).setV 0xF 0x55)
    (fun t => t.getV 1 == 0xFF && t.getV 0xF == 0x55) = true := by decide

/-- T-ALU-5. -/
theorem test_and : ran ((((booted [0x81, 0x22]).setV 1 0xF3).setV 2 0x3C).setV 0xF 0x55)
    (fun t => t.getV 1 == 0x30 && t.getV 0xF == 0x55) = true := by decide

/-- T-ALU-6. -/
theorem test_xor : ran ((((booted [0x81, 0x23]).setV 1 0xF3).setV 2 0x3C).setV 0xF 0x55)
    (fun t => t.getV 1 == 0xCF && t.getV 0xF == 0x55) = true := by decide

/-- T-SRC-2 (a), T-ALU-7. -/
theorem test_add : ran (((booted [0x81, 0x24]).setV 1 200).setV 2 100) (fun t => t.getV 1 == 44 && t.getV 0xF == 1) = true ∧
    ran (((booted [0x81, 0x24]).setV 1 0xFE).setV 2 1) (fun t => t.getV 1 == 0xFF && t.getV 0xF == 0) = true := by decide

/-- T-ALU-8, T-ALU-16. -/
theorem test_add_vf : ran ((booted [0x8F, 0xF4]).setV 0xF 0x80) (fun t => t.getV 0xF == 1) = true ∧
    ran (((booted [0x81, 0xF4]).setV 1 0xFF).setV 0xF 1) (fun t => t.getV 1 == 0 && t.getV 0xF == 1) = true := by decide

/-- T-SRC-3 (b), T-ALU-9. -/
theorem test_sub : ran (((booted [0x81, 0x25]).setV 1 5).setV 2 10) (fun t => t.getV 1 == 251 && t.getV 0xF == 0) = true ∧
    ran ((((booted [0x81, 0x25]).setV 1 0x42).setV 2 0x42).setV 0xF 1)
      (fun t => t.getV 1 == 0 && t.getV 0xF == 0) = true := by decide

/-- T-ALU-10. -/
theorem test_sub_vf : ran (((booted [0x8F, 0x15]).setV 0xF 5).setV 1 3) (fun t => t.getV 0xF == 1) = true ∧
    ran (((booted [0x8F, 0x15]).setV 0xF 3).setV 1 5) (fun t => t.getV 0xF == 0) = true := by decide

/-- T-ALU-11, T-ALU-15. -/
theorem test_shr : ran (((booted [0x81, 0x26]).setV 1 5).setV 2 0xFF)
      (fun t => t.getV 1 == 2 && t.getV 0xF == 1 && t.getV 2 == 0xFF) = true ∧
    ran ((booted [0x8F, 0x06]).setV 0xF 2) (fun t => t.getV 0xF == 0) = true := by decide

/-- T-ALU-12, T-ALU-18. -/
theorem test_subn : ran (((booted [0x81, 0x27]).setV 1 5).setV 2 10) (fun t => t.getV 1 == 5 && t.getV 0xF == 1) = true ∧
    ran (((booted [0x8F, 0x07]).setV 0xF 3).setV 0 9) (fun t => t.getV 0xF == 1) = true := by decide

/-- T-ALU-12 (second), T-ALU-13. -/
theorem test_subn_borrow :
    ran (((booted [0x81, 0x27]).setV 1 10).setV 2 5) (fun t => t.getV 1 == 251 && t.getV 0xF == 0) = true ∧
    ran ((((booted [0x81, 0x27]).setV 1 0x42).setV 2 0x42).setV 0xF 1)
      (fun t => t.getV 1 == 0 && t.getV 0xF == 0) = true := by decide

/-- T-SRC-4, T-ALU-14. -/
theorem test_shl : ran ((booted [0x81, 0x0E]).setV 1 0x80) (fun t => t.getV 1 == 0 && t.getV 0xF == 1) = true ∧
    ran (((booted [0x81, 0x2E]).setV 1 0x81).setV 2 0xFF)
      (fun t => t.getV 1 == 2 && t.getV 0xF == 1 && t.getV 2 == 0xFF) = true := by decide

/-! ### Memory and the address register -/

/-- T-MEM-1. -/
theorem test_ld_i : ran (booted [0xAF, 0xFF]) (fun t => t.i == 0x0FFF) = true := by decide

/-- T-MEM-2. -/
theorem test_add_i : ran ((((booted [0xF1, 0x1E]).setI 0x0FFF).setV 1 2).setV 0xF 0x55)
    (fun t => t.i == 0x1001 && t.getV 0xF == 0x55) = true := by decide

/-- T-MEM-3. -/
theorem test_add_i_overflow : ran (((booted [0xF1, 0x1E]).setI 0xFFFF).setV 1 1)
    (fun t => t.i == 0xFFFF && t.pc == 0x202 && faulted t .addressOverflow 0xF11E 0x10000 0x202) = true := by decide

/-- T-MEM-4. -/
theorem test_ld_f : ran ((booted [0xF1, 0x29]).setV 1 0x0A) (fun t => t.i == 0x0082) = true ∧
    ran ((booted [0xF1, 0x29]).setV 1 0xFF) (fun t => t.i == 0x054B) = true := by decide

/-- T-MEM-5. -/
theorem test_ld_b : ran (((booted [0xF0, 0x33, 0, 0, 0]).setI 0x202).setV 0 254)
    (fun t => t.mem.read 0x202 == 2 && t.mem.read 0x203 == 5 && t.mem.read 0x204 == 4) = true := by decide

/-- T-MEM-6. -/
theorem test_ld_b_fault : ran (((booted [0xF0, 0x33, 0]).setI 0x202).setV 0 123)
    (fun t => t.mem.read 0x202 == 1 && faulted t (.memoryBoundsError .write) 0xF033 0x203 0x202) = true := by decide

/-- T-MEM-7. -/
theorem test_store : ran (((((booted [0xF2, 0x55, 0, 0, 0]).setI 0x202).setV 0 1).setV 1 2).setV 2 3)
    (fun t => t.mem.read 0x202 == 1 && t.mem.read 0x203 == 2 && t.mem.read 0x204 == 3 && t.i == 0x202) = true := by decide

/-- T-MEM-8. -/
theorem test_store_fault : ran (((((booted [0xF2, 0x55]).setI 0x201).setV 0 1).setV 1 2).setV 2 3)
    (fun t => t.mem.read 0x201 == 1 && faulted t (.memoryBoundsError .write) 0xF255 0x202 0x202) = true := by decide

/-- T-MEM-9. -/
theorem test_load : ran (((booted [0xF2, 0x65, 0x0A, 0x0B, 0x0C, 0x0D]).setI 0x202).setV 3 0x77)
    (fun t => t.getV 0 == 0x0A && t.getV 1 == 0x0B && t.getV 2 == 0x0C && t.getV 3 == 0x77 && t.i == 0x202) = true := by
  decide

/-- T-MEM-10, T-MEM-12. -/
theorem test_load_fault_and_font :
    ran (((booted [0xF2, 0x65, 0xAB]).setI 0x202).setV 1 9)
      (fun t => t.getV 0 == 0xAB && t.getV 1 == 9 && faulted t (.memoryBoundsError .read) 0xF265 0x203 0x202) = true ∧
    ran ((booted [0xF0, 0x65]).setI 0x050) (fun t => t.getV 0 == 0xF0) = true := by decide

/-! ### Timers and keys -/

/-- T-KEY-1. -/
theorem test_ld_vx_dt : ran ((booted [0xF3, 0x07]).setDt 0x2A) (fun t => t.getV 3 == 0x2A && t.dt == 0x2A) = true := by
  decide

/-- T-KEY-2. -/
theorem test_ld_dt : ran ((booted [0xF3, 0x15]).setV 3 0x3C) (fun t => t.dt == 0x3C && t.st == 0) = true := by decide

/-- T-KEY-3. -/
theorem test_ld_st : ran ((booted [0xF3, 0x18]).setV 3 5) (fun t => t.st == 5 && t.dt == 0) = true := by decide

/-- T-KEY-4, its first and last tick. -/
theorem test_timer_tick :
    ran { (booted []).setDt 2 with agenda := [.timerTick] } (fun t => t.dt == 1 && t.st == 0 && t.pc == 0x200) = true ∧
    ran { booted [] with agenda := [.timerTick] } (fun t => t.dt == 0 && t.st == 0) = true := by decide

/-- T-KEY-5, steps 2 and 3. -/
theorem test_key_wait_latch :
    ran (withKeys (booted [0xF1, 0x0A]) none (some 7)) (fun t => t.kw == .idle && t.pc == 0x200) = true ∧
    ran (withKeys (booted [0xF1, 0x0A]) (some 7) none) (fun t => t.kw == .keyLatched 7 && t.pc == 0x200) = true := by
  decide

/-- T-KEY-5, step 5, and T-KEY-6 under the three policies. -/
theorem test_key_wait_commit :
    ran (withKeys ((booted [0xF1, 0x0A]).setKw (.keyLatched 7)) none (some 7))
      (fun t => t.kw == .idle && t.pc == 0x202 && t.getV 1 == 7) = true ∧
    ran (withKeys ((booted [0xF1, 0x0A]).setKw (.keyLatched 7)) none (some 3))
      (fun t => t.kw == .keyLatched 7 && t.pc == 0x200 && t.getV 1 == 0) = true ∧
    ran { withKeys ((booted [0xF1, 0x0A]).setKw (.keyLatched 7)) none (some 3) with releaseMatch := .anyKeyCommitReleased }
      (fun t => t.kw == .idle && t.pc == 0x202 && t.getV 1 == 3) = true ∧
    ran { withKeys ((booted [0xF1, 0x0A]).setKw (.keyLatched 7)) none (some 3) with releaseMatch := .anyKeyCommitLatched }
      (fun t => t.kw == .idle && t.pc == 0x202 && t.getV 1 == 7) = true := by
  decide

/-- T-KEY-9, T-KEY-12. -/
theorem test_skp : ran (pressing ((booted [0xE1, 0x9E]).setV 1 5) 5) (fun t => t.pc == 0x204) = true ∧
    ran (withKeys ((booted [0xE1, 0x9E]).setV 1 5) (some 5) none) (fun t => t.pc == 0x202) = true := by decide

/-- T-KEY-11. -/
theorem test_skp_range : ran ((booted [0xE1, 0x9E]).setV 1 0x10)
    (fun t => t.pc == 0x202 && faulted t .keyIndexRange 0xE19E 0x10 0x202) = true := by decide

/-- T-KEY-10. -/
theorem test_sknp : ran ((booted [0xE1, 0xA1]).setV 1 5) (fun t => t.pc == 0x204) = true ∧
    ran (pressing ((booted [0xE1, 0xA1]).setV 1 5) 5) (fun t => t.pc == 0x202) = true := by decide

/-- T-KEY-11, second half. -/
theorem test_sknp_range : ran ((booted [0xE1, 0xA1]).setV 1 0x10)
    (fun t => t.pc == 0x202 && faulted t .keyIndexRange 0xE1A1 0x10 0x202) = true := by decide

/-! ### Drawing -/

/-- T-DRW-1. -/
theorem test_cls : ran (((booted [0x00, 0xE0]).setGfx (flipPixel (flipPixel clearGrid 0 0) 63 31)).setV 0xF 1)
    (fun t => allClear t [(0, 0), (63, 31), (10, 5)] && t.getV 0xF == 1) = true := by decide

/-- The cells set by the first draw of T-SRC-6. -/
def firstDraw : Grid :=
  [(0, 0), (1, 0), (2, 0), (3, 0), (0, 1), (3, 1), (0, 2), (1, 2), (2, 2), (3, 2)].foldl
    (fun g c => flipPixel g c.1 c.2) clearGrid

/-- T-SRC-6, second draw: bit 7 leftmost, exclusive OR, collision. -/
theorem test_draw_collision :
    ran (((((booted [0xD2, 0x33, 0xF0, 0x90, 0xF0]).setGfx firstDraw).setI 0x202).setV 2 2).setV 3 1)
      (fun t => allSet t [(0, 0), (3, 0), (0, 1), (2, 1), (4, 1), (5, 1), (0, 2), (1, 2), (3, 2), (5, 2), (2, 3), (5, 3)] &&
        allClear t [(4, 0), (1, 1), (3, 1), (6, 1), (2, 2), (4, 2), (1, 3), (6, 3)] && t.getV 0xF == 1) = true := by
  decide

/-- T-DRW-3: clipped at the right and the bottom, the second row not read. T-DRW-9: the first row stays, then the fault,
`VF` unchanged. -/
theorem test_draw_clipped_and_fault :
    ran ((((booted [0xD0, 0x12, 0xFF]).setI 0x202).setV 0 63).setV 1 31)
      (fun t => allSet t [(63, 31)] && allClear t [(0, 31), (63, 0), (0, 0), (62, 31)] && t.getV 0xF == 0 && t.flt == none)
        = true ∧
    ran (((booted [0xD0, 0x12, 0x80]).setI 0x202).setV 0xF 7)
      (fun t => allSet t [(0, 0)] && t.getV 0xF == 7 &&
        faulted t (.memoryBoundsError .read) 0xD012 0x203 0x202) = true := by decide

/-! ### Random -/

/-- T-RND-1, T-RND-4. -/
theorem test_rnd : ran (withRand (booted [0xC1, 0x0F]) 0xAB) (fun t => t.getV 1 == 0x0B) = true ∧
    ran (withRand ((booted [0xCF, 0x0F]).setV 0xF 1) 0xF3) (fun t => t.getV 0xF == 0x03) = true := by decide

/-! ### Reset and load -/

/-- T-RST-2. -/
theorem test_load_event : ran { State.reset with agenda := [.load [0xA2, 0x02, 0x12, 0x02]] }
    (fun t => t.mem.read 0x200 == 0xA2 && t.mem.read 0x203 == 0x02 && t.lsz == 0x204 && t.valid 0x1FF && !t.valid 0x204 &&
      t.mem.read 0x1FF == 0 && t.agenda == []) = true := by decide

/-- The step stops by name. -/
def stopsAtLoad (s : State) : Bool :=
  match step s with
  | .fault .loadHasNoTransition => true
  | _ => false

/-- R77, R296: a second load, and a load on a core that has faulted with nothing loaded (T-FLT-1), have no transition. -/
theorem test_load_out_of_turn : stopsAtLoad { booted [1, 2] with agenda := [.load [1]] } = true ∧
    stopsAtLoad { State.reset.raise (.memoryBoundsError .fetch) 0 0x200 with agenda := [.load [1]] } = true := by decide

/-- R296: the host changes the levels and nothing else. -/
theorem test_drive : ran { booted [1, 2] with agenda := [.drive (pressing State.reset 5).ports] }
    (fun t => t.ports.keys[5] && t.agenda == [] && t.pc == 0x200 && t.lsz == 0x202) = true := by decide

/-- R295: the valid bit of the fault port without a fault, and the whole port after T-CF-8. -/
theorem test_fault_port : (booted [0x00, 0xEE]).faultOut.1 = false ∧
    ran (booted [0x00, 0xEE]) (fun t => t.faultOut == (true, some (4, 0x00EE, 0, 0x202))) = true := by decide

/-- T-FLT-5: a faulted core ignores a tick, and reset gives the reset state back. -/
theorem test_faulted_events :
    ran { ((booted []).setDt 9).raise .stackUnderflow 0x00EE 0 with agenda := [.timerTick] } (fun t => t.dt == 9) = true ∧
    ran { ((booted [1, 2]).setDt 9).raise .stackUnderflow 0x00EE 0 with agenda := [.reset] }
      (fun t => t.dt == 0 && t.flt == none && t.lsz == 0 && t.pc == 0x200 && t.mem.cells == []) = true := by decide

/-! ### Witnesses: states and operands that meet every hypothesis of a statement, each clause at a boundary -/

/-- Two bytes are loaded, so that `LSZ` is 0x202. -/
def small : State := booted [0, 0]

/-- `I` at 0x200 with two bytes loaded. -/
def smallI : State := small.setI 0x200

/-- The bytes loaded, and a step and a timer tick to come. -/
def scheduled (rom : List Byte) : State := { booted rom with agenda := [.step, .timerTick] }

/-- A faulted state. -/
def broken : State := small.raise .stackUnderflow 0x00EE 0

/-- The last value at which a jump target is still below `LSZ` would be 0x201; at 0x202 the premise holds. -/
theorem witness_JumpGoesToTarget : small.lsz.val ≤ (0x202#12).toNat := by decide

theorem witness_OffsetJumpIsNotMasked : 0x1000 ≤ (0xFFF#12).toNat + ((small.setV 0 1).getV 0).toNat := by decide

theorem witness_CallPushesReturnAddress : (stacked small 15 0x202).top.val < 16 ∧ (stacked small 16 0x202).top.val = 16 := by
  decide

theorem witness_ReturnPopsIntoPc : 0 < (stacked small 1 0x202).top.val ∧ small.top.val = 0 := by decide

theorem witness_CallThenReturnComesBack : ∃ t, (stacked small 15 0x202).top.val < 16 ∧
    exec (.callNnn 0x345) (stacked small 15 0x202) = .next t ∧ t.stk = t.stk ∧ t.top = t.top ∧ t.sp = t.sp :=
  ⟨_, by decide, rfl, rfl, rfl, rfl⟩

theorem witness_ImmediateSkips : ((small.setPc 0x1000).getV 3 = 0 ∧ (small.setPc 0x1000).pc.toNat ≤ 0x1000) ∧
    ((small.setPc 0x1000).getV 3 ≠ 1 ∧ (small.setPc 0x1000).pc.toNat ≤ 0x1000) := by decide

theorem witness_RegisterSkips : (small.getV 1 = small.getV 2 ∧ small.pc.toNat ≤ 0x1000) ∧
    ((small.setV 1 1).getV 1 ≠ (small.setV 1 1).getV 2 ∧ small.pc.toNat ≤ 0x1000) ∧
    (0 < 1 ∧ 1 < 16) ∧ (0 < 15 ∧ 15 < 16) := by decide

theorem witness_PlainRegisterWrites : (0xE : Reg) ≠ 0xF ∧ (0xF : Reg) ≠ 0 := by decide

theorem witness_flag_statements : (0xE : Reg) ≠ regF ∧ (0 : Reg) ≠ 0xE ∧ (0 : Reg) ≠ regF := by decide

theorem witness_AddToAddressRegister :
    ((small.setI 0xFFFE).setV 1 1).i.toNat + (((small.setI 0xFFFE).setV 1 1).getV 1).toNat ≤ 0xFFFF ∧
    0xFFFF < ((small.setI 0xFFFF).setV 1 1).i.toNat + (((small.setI 0xFFFF).setV 1 1).getV 1).toNat := by decide

theorem witness_DecimalDigitsStored : (small.setI 0x1FF).i.toNat + 2 < (small.setI 0x1FF).lsz.val ∧
    (0x202 < (small.setI 0x1FF).i.toNat ∨ (small.setI 0x1FF).i.toNat + 2 < 0x202) := by decide

/-- For `RegistersStored` and `RegistersLoaded`. -/
theorem witness_RegistersStored : smallI.i.toNat + (1 : Reg).val < smallI.lsz.val ∧ (1 : Reg).val ≤ (1 : Reg).val ∧
    (0x202 < smallI.i.toNat ∨ smallI.i.toNat + (1 : Reg).val < 0x202) ∧ (1 : Reg).val < (2 : Reg).val := by decide

theorem witness_StoreFaultKeepsEarlierBytes : smallI.lsz.val ≤ smallI.i.toNat + (2 : Reg).val ∧
    smallI.lsz.val ≤ smallI.i.toNat + 2 ∧ smallI.i.toNat + (1 : Reg).val < smallI.lsz.val ∧
    smallI.i.toNat < smallI.lsz.val ∧ smallI.i.toNat + 1 < smallI.lsz.val ∧
    (0x202 < smallI.i.toNat ∨ smallI.lsz.val ≤ 0x202) := by decide

theorem witness_LoadFaultKeepsEarlierRegisters : smallI.lsz.val ≤ smallI.i.toNat + (2 : Reg).val := by decide

theorem witness_StoreThenLoadRestoresRegisters : ∃ t, smallI.i.toNat + (1 : Reg).val < smallI.lsz.val ∧
    exec (.ldMiVx 1) smallI = .next t ∧ t.mem = t.mem ∧ t.i = t.i ∧ t.lsz = t.lsz :=
  ⟨_, by decide, rfl, rfl, rfl, rfl⟩

theorem witness_FetchSeesStoredBytes : ∃ t, (0 : Reg).val < (1 : Reg).val ∧
    smallI.i.toNat + (1 : Reg).val < smallI.lsz.val ∧ exec (.ldMiVx 1) smallI = .next t ∧
    smallI.pc.toNat = smallI.i.toNat + (0 : Reg).val :=
  ⟨_, by decide, by decide, rfl, by decide⟩

theorem witness_TimerTickCountsDown : ({ small with agenda := [.timerTick] } : State).agenda = .timerTick :: [] ∧
    small.flt = none ∧ ({ broken with agenda := [.timerTick] } : State).agenda = .timerTick :: [] ∧ broken.flt ≠ none := by
  decide

theorem witness_KeyWaitPoll :
    (small.kw = .idle ∧ small.ports.keyDown = none) ∧
    ((withKeys small (some 15) none).kw = .idle ∧ (withKeys small (some 15) none).ports.keyDown = some 15) ∧
    ((small.setKw (.keyLatched 15)).kw = .keyLatched 15 ∧ (small.setKw (.keyLatched 15)).ports.keyUp = none) ∧
    ((withKeys (small.setKw (.keyLatched 15)) none (some 0)).kw = .keyLatched 15 ∧
      (withKeys (small.setKw (.keyLatched 15)) none (some 0)).ports.keyUp = some 0 ∧ (0 : Key) ≠ 15 ∧
      (withKeys (small.setKw (.keyLatched 15)) none (some 0)).releaseMatch = .sameKey) := by decide

/-- The last clause of `KeyWaitPoll`, under `same_key` and under another policy. -/
theorem witness_KeyWaitPoll_commit :
    ((withKeys (small.setKw (.keyLatched 15)) none (some 15)).kw = .keyLatched 15 ∧
      (withKeys (small.setKw (.keyLatched 15)) none (some 15)).ports.keyUp = some 15 ∧ ((15 : Key) = 15 ∨
      (withKeys (small.setKw (.keyLatched 15)) none (some 15)).releaseMatch ≠ .sameKey)) ∧
    ((0 : Key) = 15 ∨ ({ small with releaseMatch := .anyKeyCommitReleased } : State).releaseMatch ≠ .sameKey) := by decide

theorem witness_KeyWaitLatchesThenCommits :
    (withKeys (booted [0xF1, 0x0A]) (some 7) none).Fetches (BitVec.ofNat 16 (0xF00A + 256 * (1 : Reg).val)) ∧
    (withKeys (booted [0xF1, 0x0A]) (some 7) none).kw = .idle ∧
    (withKeys (booted [0xF1, 0x0A]) (some 7) none).ports.keyDown = some 7 ∧
    (withKeys small none none).ports.keyUp = none ∧ (withKeys small none (some 7)).ports.keyUp = some 7 ∧
    stepComesNext [] ∧ stepComesNext [.step] :=
  ⟨⟨rfl, .inl rfl, by decide, by decide, by decide⟩, by decide, by decide, by decide, by decide, .inl rfl, .inr ⟨_, rfl⟩⟩

theorem witness_KeySkips : ((small.setV 1 15).getV 1).toNat < 16 ∧ 15 < ((small.setV 1 16).getV 1).toNat ∧
    (pressing small 15).ports.keys[15] = true ∧ small.ports.keys[15] = false ∧ small.pc.toNat ≤ 0x1000 := by decide

/-- Nothing to draw; and one row on the last valid byte. -/
theorem witness_SpriteDrawn : (small.drawnRows 1 0 = 0 ∨ small.i.toNat + small.drawnRows 1 0 ≤ small.lsz.val) ∧
    ((smallI.drawnRows 1 2 = 0 ∨ smallI.i.toNat + smallI.drawnRows 1 2 ≤ smallI.lsz.val) ∧ smallI.drawnRows 1 2 = 2) := by
  decide

theorem witness_DrawFaultKeepsEarlierRows : 0 < smallI.drawnRows 1 3 ∧
    smallI.lsz.val < smallI.i.toNat + smallI.drawnRows 1 3 := by decide

theorem witness_DrawingTwiceRestoresGrid : ∃ t, (0 : Reg) ≠ regF ∧ (1 : Reg) ≠ regF ∧
    (smallI.drawnRows 1 2 = 0 ∨ smallI.i.toNat + smallI.drawnRows 1 2 ≤ smallI.lsz.val) ∧
    exec (.drwVxVyN 0 1 2) smallI = .next t :=
  ⟨_, by decide, by decide, by decide, rfl⟩

theorem witness_PixelPortIsRowMajor : 63 < 64 ∧ 31 < 32 := by decide

theorem witness_MaskedRandomByte : (0x0F : Byte).getLsbD 4 = false ∧ (2 : Reg) ≠ 1 := by decide

theorem witness_StepRunsDecodedInstruction :
    (booted [0x60, 0x12]).Fetches 0x6012 ∧ (scheduled [0x60, 0x12]).Fetches 0x6012 ∧
    decode 0x6012 = .ok (.ldVxNn 0 0x12) :=
  ⟨⟨rfl, .inl rfl, by decide, by decide, by decide⟩, ⟨rfl, .inr ⟨_, rfl⟩, by decide, by decide, by decide⟩, by decide⟩

theorem witness_IllegalOpcodeTaken :
    (booted [0x51, 0x21]).Fetches 0x5121 ∧ (scheduled [0x51, 0x21]).Fetches 0x5121 ∧
    decode 0x5121 = .error .malformedOpcode :=
  ⟨⟨rfl, .inl rfl, by decide, by decide, by decide⟩, ⟨rfl, .inr ⟨_, rfl⟩, by decide, by decide, by decide⟩, by decide⟩

/-- The second byte at `LSZ`, and the first one at `LSZ`. -/
theorem witness_FetchFaultTaken :
    ((booted [0]).flt = none ∧ stepComesNext (booted [0]).agenda ∧ (booted [0]).lsz.val ≤ (booted [0]).pc.toNat + 1) ∧
    ((scheduled []).flt = none ∧ stepComesNext (scheduled []).agenda ∧
      (scheduled []).lsz.val ≤ (scheduled []).pc.toNat) :=
  ⟨⟨rfl, .inl rfl, by decide⟩, ⟨rfl, .inr ⟨_, rfl⟩, by decide⟩⟩

theorem witness_FaultedCoreIgnoresEvents : broken.flt ≠ none ∧ broken.agenda = [] ∧
    ({ broken with agenda := [.step] } : State).agenda = .step :: [] ∧
    ({ broken with agenda := [.timerTick] } : State).agenda = .timerTick :: [] := by decide

theorem witness_OnlyResetClearsFault :
    (∃ t, broken.flt = some { cause := .stackUnderflow, opcode := 0x00EE, addr := 0, pc := 0x200 } ∧
      step broken = .next t) ∧
    ∃ t, ({ broken with agenda := [.reset] } : State).flt =
      some { cause := .stackUnderflow, opcode := 0x00EE, addr := 0, pc := 0x200 } ∧
      step { broken with agenda := [.reset] } = .next t :=
  ⟨⟨_, rfl, rfl⟩, ⟨_, rfl, rfl⟩⟩

/-- A form that faults and a form that does not, both from states without a fault. -/
theorem witness_FaultsExactlyAsTabulated : small.flt = none ∧ faultsAt .ret small ∧ ¬ faultsAt .cls small := by
  refine ⟨rfl, rfl, fun h => h⟩

theorem witness_DriveChangesOnlyInputs :
    ({ small with agenda := [.drive Ports.initial, .step] } : State).agenda = .drive Ports.initial :: [.step] := rfl

/-- A load out of turn, once because something is loaded and once because the core is faulted with nothing loaded. -/
theorem witness_OnlyRepeatedLoadStops_outOfTurn :
    (({ small with agenda := [.load [1]] } : State).agenda = .load [1] :: [] ∧
      (({ small with agenda := [.load [1]] } : State).lsz.val ≠ 0)) ∧
    (({ State.reset.raise .stackUnderflow 0x00EE 0 with agenda := [.load [1]] } : State).agenda = .load [1] :: [] ∧
      (({ State.reset.raise .stackUnderflow 0x00EE 0 with agenda := [.load [1]] } : State).flt ≠ none)) := by
  decide

theorem witness_ResetEventDiscardsState :
    ({ broken with agenda := [.reset, .step] } : State).agenda = .reset :: [.step] := by decide

theorem witness_LoadPlacesImage :
    ({ State.reset with agenda := [.load [1, 2]] } : State).agenda = .load [1, 2] :: [] ∧
    ({ State.reset with agenda := [.load [1, 2]] } : State).lsz.val = 0 ∧
    ({ State.reset with agenda := [.load [1, 2]] } : State).flt = none ∧ romWellFormed [1, 2] = true := by decide

/-- The last clause of `OnlyRepeatedLoadStops`, one byte beyond the longest image. -/
theorem witness_OnlyRepeatedLoadStops :
    ({ State.reset with agenda := [.load (List.replicate 3585 0)] } : State).agenda =
      .load (List.replicate 3585 0) :: [] ∧
    State.reset.lsz.val = 0 ∧ State.reset.flt = none ∧ romWellFormed (List.replicate 3585 0) = false :=
  ⟨rfl, rfl, rfl, test_rom_too_long⟩

theorem witness_EncodeOfDecode : decode 0x8C96 = .ok (.shrVx 0xC 9) := by decide

theorem witness_RegistersFrame : ∃ t, exec (.addVxVy 1 2) small = .next t ∧ writesRegister (.addVxVy 1 2) 3 = false :=
  ⟨_, rfl, by decide⟩

theorem witness_FlagIsZeroOrOne : ∃ t, definesFlag (.shlVx 0xF 0) = true ∧ small.flt = none ∧
    exec (.shlVx 0xF 0) small = .next t ∧ t.flt = none :=
  ⟨_, by decide, rfl, rfl, rfl⟩

/-- The advanced `PC` and the live return address at their bounds; and a form that writes no `PC`. -/
theorem witness_ProgramCounterFrame : (∃ t, exec .ret (stacked (small.setPc 0x1000) 1 0x1000) = .next t ∧
      2 ≤ (small.setPc 0x1000).pc.toNat ∧ (small.setPc 0x1000).pc.toNat ≤ 0x1000 ∧
      ∀ j : Fin 16, j.val < (stacked small 1 0x1000).top.val → (stacked small 1 0x1000).stk[j].toNat ≤ 0x1000) ∧
    ∃ t, exec .cls small = .next t ∧ writesPc .cls = false :=
  ⟨⟨_, rfl, by decide, by decide, by decide⟩, ⟨_, rfl, rfl⟩⟩

theorem witness_SpecialStateHasItsOwners : ∃ t, exec .cls small = .next t ∧ writesI .cls = false ∧
    usesStack .cls = false ∧ writesDelay .cls = false ∧ writesSound .cls = false ∧ usesKeyWait .cls = false ∧
    storesMemory .cls = false ∧ writesPixels .ret = false :=
  ⟨_, rfl, rfl, rfl, rfl, rfl, rfl, rfl, rfl⟩

theorem witness_TickCommutesWithInstructions : ∃ t, usesTimer (.ldVxNn 1 2) = false ∧ (small.setDt 1).flt = none ∧
    exec (.ldVxNn 1 2) (small.setDt 1) = .next t ∧ t.flt = none :=
  ⟨_, rfl, rfl, rfl, rfl⟩

theorem witness_UnreadInputsAreIgnored : ∃ t, readsInput (.ldVxDt 1) = false ∧ exec (.ldVxDt 1) small = .next t :=
  ⟨_, rfl, rfl⟩

theorem witness_SelfJumpChangesNothing : (booted [0x12, 0x00]).pc.toNat < 0x1000 ∧
    (booted [0x12, 0x00]).Fetches (BitVec.ofNat 16 (0x1000 + (booted [0x12, 0x00]).pc.toNat)) :=
  ⟨by decide, rfl, .inl rfl, by decide, by decide, by decide⟩

theorem witness_StepKeepsInvariant : ∃ t, (booted [0x60, 0x12]).Inv ∧ step (booted [0x60, 0x12]) = .next t :=
  ⟨_, ⟨by decide, by decide, by decide, by decide, by decide⟩, rfl⟩

theorem witness_EveryScheduledRunMeetsInvariant : ∃ t,
    Host.Core.run core 2 { State.reset with agenda := [.load [0x60, 0x12]], mem := Memory.initial defaultFont,
                                            releaseMatch := .anyKeyCommitLatched } = .next t :=
  ⟨_, rfl⟩

end Sys2Proof.Tests
end

section
/-!
SUPPORT. The values of the two timers do not matter to an instruction that uses no timer (00_scope.md R7,
44_timer_key.md R203): each state operation gives the same result whatever they hold, and passes them on.
-/

namespace Sys2Proof.Machine

/-- The state with other values in the delay timer and the sound timer (R26, R27). -/
def State.withTimers (d e : Byte) (s : State) : State := { s with dt := d, st := e }

/-- On a running core a tick counts both timers down and changes nothing else (R203). -/
theorem timerTick_of_running {s : State} (h : s.flt = none) :
    timerTick s = s.withTimers (tickDown s.dt) (tickDown s.st) :=
  (timerTick_eq s).trans (if_pos h)

variable (d e : Byte) (s : State)

/-! ### The state operations -/

@[simp] theorem State.withTimers_pc : (s.withTimers d e).pc = s.pc := rfl
@[simp] theorem State.withTimers_kw : (s.withTimers d e).kw = s.kw := rfl
@[simp] theorem State.withTimers_ports : (s.withTimers d e).ports = s.ports := rfl
@[simp] theorem State.withTimers_releaseMatch : (s.withTimers d e).releaseMatch = s.releaseMatch := rfl
@[simp] theorem State.withTimers_getV (r : Reg) : (s.withTimers d e).getV r = s.getV r := rfl
@[simp] theorem State.withTimers_memRead (a : Nat) : (s.withTimers d e).memRead a = s.memRead a := rfl
@[simp] theorem State.withTimers_keyPressed (b : Byte) : (s.withTimers d e).keyPressed b = s.keyPressed b := rfl

theorem State.skipIf_withTimers (c : Bool) : (s.withTimers d e).skipIf c = (s.skipIf c).withTimers d e := by
  simp only [State.skipIf_eq]
  rfl

theorem State.memWrite_withTimers (a : Nat) (b : Byte) :
    (s.withTimers d e).memWrite a b = (s.memWrite a b).map (State.withTimers d e) := by
  rw [State.memWrite, State.memWrite, apply_ite (Option.map (State.withTimers d e))]
  rfl

theorem State.push_withTimers (w : Word) :
    (s.withTimers d e).push w = (s.push w).map (State.withTimers d e) := by
  rw [State.push, State.push, apply_dite (Option.map (State.withTimers d e))]
  rfl

theorem State.pop_withTimers :
    (s.withTimers d e).pop = s.pop.map (Prod.map id (State.withTimers d e)) := by
  rw [State.pop, State.pop, apply_dite (Option.map (Prod.map id (State.withTimers d e)))]
  rfl

/-! ### The block transfers and the sprite rows -/

theorem storeBytes_withTimers (op : Word) (a : Nat) (bs : List Byte) :
    storeBytes op (s.withTimers d e) a bs = (storeBytes op s a bs).withTimers d e := by
  induction bs generalizing s a with
  | nil => rfl
  | cons b bs ih =>
    simp only [storeBytes, State.memWrite_withTimers]
    cases s.memWrite a b with
    | none => rfl
    | some t => exact ih t (a + 1)

theorem loadRegs_withTimers (op : Word) (a : Nat) (xs : List Reg) :
    loadRegs op (s.withTimers d e) a xs = (loadRegs op s a xs).withTimers d e := by
  induction xs generalizing s a with
  | nil => rfl
  | cons x xs ih =>
    simp only [loadRegs, State.withTimers_memRead]
    cases s.memRead a with
    | none => rfl
    | some b => exact ih (s.setV x b) (a + 1)

theorem drawRows_withTimers (op : Word) (x0 k yy a : Nat) (hit : Bool) :
    drawRows op x0 k yy a hit (s.withTimers d e) = (drawRows op x0 k yy a hit s).withTimers d e := by
  rw [drawRows_eq, drawRows_eq, apply_ite (State.withTimers d e)]
  rfl

/-! ### The instructions -/

variable {s} {t : State} {i : Instr}

/-- An instruction that uses no timer does the same whatever the timers hold, and passes them on. -/
theorem exec_withTimers (hi : usesTimer i = false) (h : exec i s = .next t) :
    exec i (s.withTimers d e) = .next (t.withTimers d e) := by
  cases i with
  | ldVxDt | ldDtVx | ldStVx => cases hi
  | cls | jpNnn | jpV0Nnn | ldVxNn | addVxNn | ldVxVy | orVxVy | andVxVy | xorVxVy | addVxVy | subVxVy | shrVx
  | subnVxVy | shlVx | ldINnn | ldFVx | rndVxNn =>
    cases h
    rfl
  | seVxNn | sneVxNn | seVxVy | sneVxVy =>
    cases h
    exact congrArg _ (State.skipIf_withTimers d e s _)
  | callNnn nnn =>
    simp only [exec, execCallNnn, State.push_withTimers, State.withTimers_pc] at h ⊢
    cases hp : s.push s.pc <;> (rw [hp] at h; cases h; rfl)
  | ret =>
    simp only [exec, execRet, State.pop_withTimers] at h ⊢
    cases hp : s.pop <;> (rw [hp] at h; cases h; rfl)
  | skpVx x | sknpVx x =>
    simp only [exec, execSkpVx, execSknpVx, State.withTimers_keyPressed, State.withTimers_getV,
      State.skipIf_withTimers] at h ⊢
    cases hk : s.keyPressed (s.getV x) <;> (rw [hk] at h; cases h; rfl)
  | ldVxK x =>
    simp only [exec, execLdVxK, State.withTimers_kw, State.withTimers_ports, State.withTimers_releaseMatch] at h ⊢
    cases hk : s.kw with
    | idle => cases hd : s.ports.keyDown <;> (rw [hk, hd] at h; cases h; rfl)
    | keyLatched k =>
      cases hc : committedKey s.releaseMatch k s.ports.keyUp <;> (simp only [hk, hc] at h ⊢; cases h; rfl)
  | addIVx x =>
    simp only [exec, execAddIVx] at h ⊢
    by_cases hover : s.i.toNat + (s.getV x).toNat > 0xFFFF
    · rw [if_pos hover] at h
      cases h
      exact if_pos hover
    · rw [if_neg hover] at h
      cases h
      exact if_neg hover
  | drwVxVyN =>
    cases h
    exact congrArg _ (drawRows_withTimers d e s _ _ _ _ _ _)
  | ldBVx | ldMiVx =>
    cases h
    exact congrArg _ (storeBytes_withTimers d e s _ _ _)
  | ldVxMi =>
    cases h
    exact congrArg _ (loadRegs_withTimers d e s _ _ _)

/-- An instruction that uses no timer leaves both timers alone: run with the timers it has, it passes those on. -/
theorem exec_keeps_timers (hi : usesTimer i = false) (h : exec i s = .next t) : t.dt = s.dt ∧ t.st = s.st := by
  have hkept : exec i s = .next (t.withTimers s.dt s.st) := exec_withTimers s.dt s.st hi h
  have heq : t = t.withTimers s.dt s.st := Host.Outcome.next.inj (h.symm.trans hkept)
  rw [heq]
  exact ⟨rfl, rfl⟩

end Sys2Proof.Machine

namespace Sys2Proof.Proofs

open Sys2Proof.Machine

/-- Settles O54: the instruction keeps the two timers, so both orders count down the same values, and it does not see
that they were counted down first. -/
theorem tickCommutesWithInstructions : Obligations.TickCommutesWithInstructions := by
  intro i s t hi hs h ht
  obtain ⟨hdt, hst⟩ := exec_keeps_timers hi h
  rw [timerTick_of_running hs, timerTick_of_running ht, hdt, hst]
  exact exec_withTimers _ _ hi h

end Sys2Proof.Proofs
end

section
/-!
SUPPORT. One lemma for each instruction whose meaning branches that says once everything it can answer, and the frame of
each operation that works on several bytes or rows.
-/

namespace Sys2Proof.Machine

/-! ### The instructions that branch -/

/-- Everything `2nnn` can answer (41_control_flow.md R142). -/
theorem execCallNnn_cases (nnn : BitVec 12) (s : State) :
    (∃ hroom : s.top.val < 16, execCallNnn nnn s =
      .next { s with stk := s.stk.set s.top.val s.pc, top := ⟨s.top.val + 1, by omega⟩, sp := s.sp + 1,
                     pc := zext16 nnn }) ∨
    (s.top.val = 16 ∧ execCallNnn nnn s =
      .next (s.raise .stackOverflow (encode (.callNnn nnn)) s.pc.toNat)) := by
  unfold execCallNnn
  cases hp : s.push s.pc with
  | some t =>
    obtain ⟨hroom, rfl⟩ := State.push_eq_some.1 hp
    exact .inl ⟨hroom, rfl⟩
  | none => exact .inr ⟨State.push_eq_none.1 hp, rfl⟩

/-- Everything `00EE` can answer (R143). -/
theorem execRet_cases (s : State) :
    (∃ hlive : 0 < s.top.val, execRet s =
      .next { s with top := ⟨s.top.val - 1, by omega⟩, sp := s.sp - 1, pc := s.stk[s.top.val - 1] }) ∨
    (s.top.val = 0 ∧ execRet s = .next (s.raise .stackUnderflow (encode .ret) 0)) := by
  unfold execRet
  cases hp : s.pop with
  | some wt =>
    obtain ⟨w, t⟩ := wt
    obtain ⟨hlive, rfl, rfl⟩ := State.pop_eq_some.1 hp
    exact .inl ⟨hlive, rfl⟩
  | none => exact .inr ⟨State.pop_eq_none.1 hp, rfl⟩

/-- Everything `Ex9E` can answer (44_timer_key.md R206). -/
theorem execSkpVx_cases (x : Reg) (s : State) :
    (∃ hkey : (s.getV x).toNat < 16, execSkpVx x s = .next (s.skipIf s.ports.keys[(s.getV x).toNat])) ∨
    (16 ≤ (s.getV x).toNat ∧
      execSkpVx x s = .next (s.raise .keyIndexRange (encode (.skpVx x)) (s.getV x).toNat)) := by
  unfold execSkpVx State.keyPressed
  split_ifs with hkey
  · exact .inl ⟨hkey, rfl⟩
  · exact .inr ⟨Nat.le_of_not_lt hkey, rfl⟩

/-- Everything `ExA1` can answer (R207). -/
theorem execSknpVx_cases (x : Reg) (s : State) :
    (∃ hkey : (s.getV x).toNat < 16, execSknpVx x s = .next (s.skipIf !s.ports.keys[(s.getV x).toNat])) ∨
    (16 ≤ (s.getV x).toNat ∧
      execSknpVx x s = .next (s.raise .keyIndexRange (encode (.sknpVx x)) (s.getV x).toNat)) := by
  unfold execSknpVx State.keyPressed
  split_ifs with hkey
  · exact .inl ⟨hkey, rfl⟩
  · exact .inr ⟨Nat.le_of_not_lt hkey, rfl⟩

/-- Everything one poll of `Fx0A` can answer: it waits on, latches a key, or commits one (R204). -/
theorem execLdVxK_cases (x : Reg) (s : State) :
    (s.kw = .idle ∧ s.ports.keyDown = none ∧ execLdVxK x s = .next s.rewind) ∨
    (∃ k, s.kw = .idle ∧ s.ports.keyDown = some k ∧
      execLdVxK x s = .next (s.setKw (.keyLatched k)).rewind) ∨
    (∃ k, s.kw = .keyLatched k ∧ committedKey s.releaseMatch k s.ports.keyUp = none ∧
      execLdVxK x s = .next s.rewind) ∨
    (∃ k c, s.kw = .keyLatched k ∧ committedKey s.releaseMatch k s.ports.keyUp = some c ∧
      execLdVxK x s = .next ((s.setV x (keyByte c)).setKw .idle)) := by
  unfold execLdVxK
  cases hkw : s.kw with
  | idle =>
    cases hd : s.ports.keyDown with
    | none => exact .inl ⟨rfl, rfl, rfl⟩
    | some k => exact .inr (.inl ⟨k, rfl, rfl, rfl⟩)
  | keyLatched k =>
    cases hc : committedKey s.releaseMatch k s.ports.keyUp with
    | none => exact .inr (.inr (.inl ⟨k, rfl, hc, by simp only [hc]⟩))
    | some c => exact .inr (.inr (.inr ⟨k, c, rfl, hc, by simp only [hc]⟩))

/-- Everything `Fx1E` can answer (43_memory_address.md R181). -/
theorem execAddIVx_cases (x : Reg) (s : State) :
    (s.i.toNat + (s.getV x).toNat ≤ 0xFFFF ∧
      execAddIVx x s = .next (s.setI (BitVec.ofNat 16 (s.i.toNat + (s.getV x).toNat)))) ∨
    (0xFFFF < s.i.toNat + (s.getV x).toNat ∧
      execAddIVx x s =
        .next (s.raise .addressOverflow (encode (.addIVx x)) (s.i.toNat + (s.getV x).toNat))) := by
  unfold execAddIVx
  split
  next hover => exact .inr ⟨hover, rfl⟩
  next hfit => exact .inl ⟨Nat.le_of_not_lt hfit, rfl⟩

/-! ### The frames of the block transfers and of the sprite rows -/

/-- Storing bytes writes memory, or the fault record, and nothing else. -/
theorem storeBytes_frame (op : Word) (s : State) (a : Nat) (bs : List Byte) :
    storeBytes op s a bs =
      { s with mem := (storeBytes op s a bs).mem, flt := (storeBytes op s a bs).flt } := by
  induction bs generalizing s a with
  | nil => rfl
  | cons b bs ih =>
    simp only [storeBytes]
    cases hw : s.memWrite a b with
    | none => rfl
    | some t =>
      obtain ⟨-, rfl⟩ := State.memWrite_eq_some.1 hw
      exact ih _ _

/-- Loading registers writes registers, or the fault record, and nothing else. -/
theorem loadRegs_frame (op : Word) (s : State) (a : Nat) (xs : List Reg) :
    loadRegs op s a xs = { s with v := (loadRegs op s a xs).v, flt := (loadRegs op s a xs).flt } := by
  induction xs generalizing s a with
  | nil => rfl
  | cons x xs ih =>
    simp only [loadRegs]
    cases s.memRead a with
    | none => rfl
    | some b => exact ih _ _

/-- Drawing sprite rows writes the grid, and `VF` or the fault record, and nothing else. -/
theorem drawRows_frame (op : Word) (x0 k yy a : Nat) (hit : Bool) (s : State) :
    drawRows op x0 k yy a hit s =
      { s with gfx := (drawRows op x0 k yy a hit s).gfx, v := (drawRows op x0 k yy a hit s).v
               flt := (drawRows op x0 k yy a hit s).flt } := by
  rw [drawRows_eq]
  split <;> rfl

end Sys2Proof.Machine
end

section
/-!
SUPPORT. The invariant of every reachable state (10_state.md R24, R29, R31): each state operation keeps it, so every
instruction, every event and every run does.
-/

namespace Sys2Proof.Machine

variable {s t : State}

/-! ### The state operations -/

/-- The invariant speaks of six pieces of state only; an operation that keeps those keeps it. -/
theorem State.Inv.transfer (hs : s.Inv) (hmem : t.mem = s.mem := by rfl) (hsp : t.sp = s.sp := by rfl)
    (htop : t.top = s.top := by rfl) (hstk : t.stk = s.stk := by rfl) (hpc : t.pc = s.pc := by rfl)
    (hlsz : t.lsz = s.lsz := by rfl) : t.Inv where
  memory := hmem ▸ hs.memory
  advisory := by rw [hsp, htop]; exact hs.advisory
  pcBound := hpc ▸ hs.pcBound
  returns j hj := by rw [hstk]; exact hs.returns j (htop ▸ hj)
  loaded := hlsz ▸ hs.loaded

theorem State.Inv.setPc (hs : s.Inv) {w : Word} (hw : w.toNat ≤ 0x10FE) : (s.setPc w).Inv :=
  { hs with pcBound := hw }

theorem State.Inv.setMem (hs : s.Inv) {m : Memory} (hm : m.wf = true) : (s.setMem m).Inv :=
  { hs with memory := hm }

theorem State.Inv.raise (hs : s.Inv) (c : Cause) (op : Word) (a : Nat) : (s.raise c op a).Inv := hs.transfer

theorem State.Inv.skipIf (hs : s.Inv) (hpc : s.pc.toNat ≤ 0x1000) (c : Bool) : (s.skipIf c).Inv := by
  cases c with
  | false => exact hs
  | true => exact hs.setPc (by bv_omega)

/-- From an advanced `PC` the rewind of `Fx0A` does not wrap. -/
theorem State.Inv.rewind (hs : s.Inv) (hpc : 2 ≤ s.pc.toNat) : s.rewind.Inv := by
  have := hs.pcBound
  exact hs.setPc (by bv_omega)

/-- Stores stop at `LSZ`, so they stay inside the array. -/
theorem State.Inv.storeBytes (hs : s.Inv) (op : Word) (a : Nat) (bs : List Byte) :
    (storeBytes op s a bs).Inv := by
  induction bs generalizing s a with
  | nil => exact hs
  | cons b bs ih =>
    simp only [Machine.storeBytes]
    cases hw : s.memWrite a b with
    | none => exact hs.raise _ _ _
    | some t =>
      obtain ⟨ha, rfl⟩ := State.memWrite_eq_some.1 hw
      exact ih (hs.setMem (Memory.write_wf hs.memory (by omega) b)) (a + 1)

/-- A call pushes an address that is at most `0x1000` and counts it in `SP`. -/
theorem State.Inv.call (hs : s.Inv) (hpc : s.pc.toNat ≤ 0x1000) (hroom : s.top.val < 16) {w : Word}
    (hw : w.toNat ≤ 0x10FE) :
    State.Inv { s with stk := s.stk.set s.top.val s.pc, top := ⟨s.top.val + 1, by omega⟩, sp := s.sp + 1
                       pc := w } where
  memory := hs.memory
  advisory := by
    have := hs.advisory
    show (s.sp + 1).toNat = s.top.val + 1
    bv_omega
  pcBound := hw
  returns j hj := by
    show (s.stk.set s.top.val s.pc)[j.val].toNat ≤ 0x1000
    rw [Vector.getElem_set]
    split
    · exact hpc
    · exact hs.returns j (by simp only at hj; omega)
  loaded := hs.loaded

/-- A return takes the newest live address, which is at most `0x1000`, and counts it in `SP`. -/
theorem State.Inv.ret (hs : s.Inv) (hlive : 0 < s.top.val) :
    State.Inv { s with top := ⟨s.top.val - 1, by omega⟩, sp := s.sp - 1, pc := s.stk[s.top.val - 1] } where
  memory := hs.memory
  advisory := by
    have := hs.advisory
    show (s.sp - 1).toNat = s.top.val - 1
    bv_omega
  pcBound := (hs.returns ⟨s.top.val - 1, by omega⟩ (by simp only; omega)).trans (by decide)
  returns j hj := hs.returns j (by simp only at hj; omega)
  loaded := hs.loaded

/-! ### The instructions -/

theorem zext16_toNat (nnn : BitVec 12) : (zext16 nnn).toNat = nnn.toNat :=
  BitVec.toNat_setWidth_of_le (by decide)

/-- The sum of `Bnnn` fits in 16 bits (41_control_flow.md R141). -/
theorem State.offsetTarget_toNat (s : State) (nnn : BitVec 12) :
    (s.offsetTarget nnn).toNat = nnn.toNat + (s.getV reg0).toNat := by
  rw [State.offsetTarget, BitVec.toNat_ofNat, Nat.mod_eq_of_lt (by omega)]

/-- Every instruction keeps the invariant, run from a `PC` that an advance can give. -/
theorem exec_keeps_inv {i : Instr} (hs : s.Inv) (hlo : 2 ≤ s.pc.toNat) (hhi : s.pc.toNat ≤ 0x1000)
    (h : exec i s = .next t) : t.Inv := by
  cases i with
  | cls | ldVxNn | addVxNn | ldVxVy | orVxVy | andVxVy | xorVxVy | addVxVy | subVxVy | shrVx | subnVxVy | shlVx
  | ldINnn | rndVxNn | ldVxDt | ldDtVx | ldStVx | ldFVx =>
    cases h
    exact hs.transfer
  | jpNnn nnn =>
    cases h
    exact hs.setPc (by rw [zext16_toNat]; omega)
  | jpV0Nnn nnn =>
    cases h
    exact hs.setPc (by rw [State.offsetTarget_toNat]; omega)
  | seVxNn | sneVxNn | seVxVy | sneVxVy =>
    cases h
    exact hs.skipIf hhi _
  | callNnn nnn =>
    obtain ⟨hroom, he⟩ | ⟨-, he⟩ := execCallNnn_cases nnn s <;> cases he.symm.trans h
    · exact hs.call hhi hroom (by rw [zext16_toNat]; omega)
    · exact hs.raise _ _ _
  | ret =>
    obtain ⟨hlive, he⟩ | ⟨-, he⟩ := execRet_cases s <;> cases he.symm.trans h
    · exact hs.ret hlive
    · exact hs.raise _ _ _
  | skpVx x =>
    obtain ⟨_, he⟩ | ⟨-, he⟩ := execSkpVx_cases x s <;> cases he.symm.trans h
    · exact hs.skipIf hhi _
    · exact hs.raise _ _ _
  | sknpVx x =>
    obtain ⟨_, he⟩ | ⟨-, he⟩ := execSknpVx_cases x s <;> cases he.symm.trans h
    · exact hs.skipIf hhi _
    · exact hs.raise _ _ _
  | ldVxK x =>
    obtain ⟨-, -, he⟩ | ⟨k, -, -, he⟩ | ⟨k, -, -, he⟩ | ⟨k, c, -, -, he⟩ :=
      execLdVxK_cases x s <;> cases he.symm.trans h
    · exact hs.rewind hlo
    · exact (hs.rewind hlo).transfer
    · exact hs.rewind hlo
    · exact hs.transfer
  | addIVx x =>
    obtain ⟨-, he⟩ | ⟨-, he⟩ := execAddIVx_cases x s <;> cases he.symm.trans h
    · exact hs.transfer
    · exact hs.raise _ _ _
  | drwVxVyN =>
    cases h
    rw [drawRows_frame]
    exact hs.transfer
  | ldBVx | ldMiVx =>
    cases h
    exact hs.storeBytes _ _ _
  | ldVxMi =>
    cases h
    rw [loadRegs_frame]
    exact hs.transfer

/-! ### The events -/

/-- After a fetch in bounds the advance of `PC` does not wrap. -/
theorem State.advance_pc_toNat (hb : s.pc.toNat + 1 < s.lsz.val) : s.advance.pc.toNat = s.pc.toNat + 2 := by
  rw [State.advance_pc]
  bv_omega

/-- A fetch in bounds leaves an advanced `PC` of at most `0x1000` (10_state.md R24). -/
theorem State.Inv.advance (hs : s.Inv) (hb : s.pc.toNat + 1 < s.lsz.val) : s.advance.Inv :=
  hs.setPc (w := s.advance.pc) (by rw [State.advance_pc_toNat hb]; omega)

theorem engineStep_keeps_inv (hs : s.Inv) (h : engineStep s = .next t) : t.Inv := by
  obtain ⟨-, he⟩ | ⟨-, a, -, he⟩ | ⟨-, hb, op, e, -, -, he⟩ | ⟨-, hb, op, i, -, -, he⟩ := engineStep_cases s
  · cases he.symm.trans h
    exact hs
  · cases he.symm.trans h
    exact hs.raise _ _ _
  · cases he.symm.trans h
    exact (hs.advance hb).raise _ _ _
  · have hpc := State.advance_pc_toNat hb
    exact exec_keeps_inv (hs.advance hb) (by omega) (by omega) (he.symm.trans h)

theorem timerTick_keeps_inv (hs : s.Inv) : (timerTick s).Inv := by
  rw [timerTick_eq]
  split
  · exact hs.transfer
  · exact hs

theorem loadRom_keeps_inv {rom : List Byte} (hs : s.Inv) (h : loadRom rom s = .next t) : t.Inv := by
  obtain ⟨-, -, hlen, he⟩ | ⟨-, -, -, he⟩ | ⟨-, he⟩ := loadRom_cases rom s
  · cases he.symm.trans h
    have hwf : (s.mem.writeBytes 0x200 rom).wf = true := Memory.writeBytes_wf hs.memory (by omega)
    exact { hs.setMem hwf with loaded := .inr (Nat.le_add_right _ _) }
  · cases he.symm.trans h
    exact hs
  · cases he.symm.trans h

/-- A reset gives the invariant in whatever state it finds the machine. -/
theorem State.afterReset_inv (s : State) : s.afterReset.Inv where
  memory := Memory.initial_wf _
  advisory := rfl
  pcBound := show resetPc.toNat ≤ 0x10FE by decide
  returns j hj := absurd hj (Nat.not_lt_zero _)
  loaded := .inl rfl

theorem perform_keeps_inv {e : Event} (hs : s.Inv) (h : perform e s = .next t) : t.Inv := by
  cases e with
  | step => exact engineStep_keeps_inv hs h
  | timerTick => cases h; exact timerTick_keeps_inv hs
  | reset => cases h; exact s.afterReset_inv
  | load rom => exact loadRom_keeps_inv hs h
  | drive p => cases h; exact hs.transfer

theorem nextEvent_keeps_inv (hs : s.Inv) : (nextEvent s).2.Inv := by
  cases ha : s.agenda with
  | nil => rw [nextEvent_nil ha]; exact hs
  | cons e rest => rw [nextEvent_cons ha]; exact hs.transfer

theorem step_keeps_inv (hs : s.Inv) (h : step s = .next t) : t.Inv :=
  perform_keeps_inv (nextEvent_keeps_inv hs) h

/-! ### The runs -/

/-- One more step of a run that answers a state: the first step answered one, and the rest runs from it. -/
theorem core_run_succ {n : Nat} (h : Host.Core.run core (n + 1) s = .next t) :
    ∃ u, step s = .next u ∧ Host.Core.run core n u = .next t := by
  simp only [Host.Core.run] at h
  split at h
  next u hu => exact ⟨u, hu, h⟩
  next => cases h
  next => cases h

theorem run_keeps_inv {n : Nat} (hs : s.Inv) (h : Host.Core.run core n s = .next t) : t.Inv := by
  induction n generalizing s with
  | zero => cases h; exact hs
  | succ n ih =>
    obtain ⟨u, hu, hrun⟩ := core_run_succ h
    exact ih (step_keeps_inv hs hu) hrun

end Sys2Proof.Machine

namespace Sys2Proof.Proofs

open Sys2Proof.Machine

/-- Settles O58: every event keeps the invariant, and so does taking an event off the agenda. -/
theorem stepKeepsInvariant : Obligations.StepKeepsInvariant :=
  fun _ _ => step_keeps_inv

/-- Settles O57: the reset state is what a reset event makes of itself. -/
theorem resetMeetsInvariant : Obligations.ResetMeetsInvariant :=
  State.reset.afterReset_inv

/-- Settles O59, by induction on the number of transitions; the start state is the one a reset event gives in a state
with that agenda, font and policy. -/
theorem everyScheduledRunMeetsInvariant : Obligations.EveryScheduledRunMeetsInvariant := by
  intro agenda font policy n t
  exact run_keeps_inv (State.afterReset_inv
    { State.reset with agenda := agenda, mem := Memory.initial font, releaseMatch := policy })

end Sys2Proof.Proofs
end

section
/-!
SUPPORT. The call stack as seen by a call and a later return (10_state.md R28).
-/

namespace Sys2Proof.Proofs

open Sys2Proof.Machine

/-- Settles O5: the call wrote its slot at the old `TOP`, and that is the slot the return reads. -/
theorem callThenReturnComesBack : Obligations.CallThenReturnComesBack := by
  intro nnn s t u hroom hcall hstk htop hsp
  obtain ⟨_, hc⟩ | ⟨hfull, -⟩ := execCallNnn_cases nnn s
  · cases hc.symm.trans hcall
    have hslot : u.top.val = s.top.val + 1 := congrArg Fin.val htop
    obtain ⟨hlive, hr⟩ | ⟨hempty, -⟩ := execRet_cases u
    · refine ⟨_, hr, ?_, Fin.ext ?_, ?_, fun j hj => ?_⟩
      · simp [hstk, hslot]
      · simp [hslot]
      · simp [hsp]
      · simp only [hstk]
        exact Vector.getElem_set_ne _ _ (by omega)
    · omega
  · omega

end Sys2Proof.Proofs
end

section
/-!
SUPPORT. Which general registers an instruction writes (10_state.md R20), and what it writes to `VF` as a flag (R21).
-/

namespace Sys2Proof.Machine

theorem State.skipIf_getV (s : State) (c : Bool) (r : Reg) : (s.skipIf c).getV r = s.getV r := by
  rw [State.skipIf_eq]
  rfl

theorem State.setResultAndFlag_getV_ne (s : State) {x r : Reg} (hx : r ≠ x) (hf : r ≠ regF) (res flag : Byte) :
    (s.setResultAndFlag x res flag).getV r = s.getV r := by
  rw [State.setResultAndFlag_getV, if_neg hf, if_neg hx]

theorem State.setResultAndFlag_getV_regF (s : State) (x : Reg) (res flag : Byte) :
    (s.setResultAndFlag x res flag).getV regF = flag :=
  State.setV_getV_self _ _ _

theorem loadRegs_getV_of_not_mem (op : Word) (s : State) (a : Nat) {xs : List Reg} {r : Reg} (hr : r ∉ xs) :
    (loadRegs op s a xs).getV r = s.getV r := by
  induction xs generalizing s a with
  | nil => rfl
  | cons x xs ih =>
    obtain ⟨hx, hxs⟩ := not_or.1 (List.mem_cons.not.1 hr)
    simp only [loadRegs]
    cases s.memRead a with
    | none => rfl
    | some b => exact (ih _ _ hxs).trans (State.setV_getV_ne s hx b)

/-- A draw writes no register but `VF`. -/
theorem drawRows_getV_ne (op : Word) (x0 k yy a : Nat) (hit : Bool) (s : State) {r : Reg} (hr : r ≠ regF) :
    (drawRows op x0 k yy a hit s).getV r = s.getV r := by
  rw [drawRows_eq]
  split
  · exact State.setV_getV_ne _ hr _
  · rfl

/-- A draw that takes no fault writes a flag to `VF`. -/
theorem drawRows_getV_regF (op : Word) (x0 k yy a : Nat) (hit : Bool) (s : State)
    (hflt : (drawRows op x0 k yy a hit s).flt = none) :
    ∃ c, (drawRows op x0 k yy a hit s).getV regF = flagByte c := by
  rw [drawRows_eq] at hflt ⊢
  split at hflt
  next hvalid => exact ⟨_, by rw [if_pos hvalid, State.setV_getV_self]⟩
  next => cases hflt

theorem flagByte_eq_zero_or_one (c : Bool) : flagByte c = 0 ∨ flagByte c = 1 := by
  cases c with
  | false => exact .inl rfl
  | true => exact .inr rfl

variable {s t : State} {i : Instr}

/-- An instruction writes no general register but those that `writesRegister` lists. -/
theorem exec_getV_of_not_writesRegister {r : Reg} (hr : writesRegister i r = false) (h : exec i s = .next t) :
    t.getV r = s.getV r := by
  cases i with
  | cls | jpNnn | jpV0Nnn | ldINnn | ldDtVx | ldStVx | ldFVx =>
    cases h
    rfl
  | ldVxNn | addVxNn | ldVxVy | orVxVy | andVxVy | xorVxVy | rndVxNn | ldVxDt =>
    cases h
    exact State.setV_getV_ne s (ne_of_beq_false hr) _
  | addVxVy | subVxVy | shrVx | subnVxVy | shlVx =>
    cases h
    obtain ⟨hx, hf⟩ := Bool.or_eq_false_iff.1 hr
    exact s.setResultAndFlag_getV_ne (ne_of_beq_false hx) (ne_of_beq_false hf) _ _
  | seVxNn | sneVxNn | seVxVy | sneVxVy =>
    cases h
    exact s.skipIf_getV _ r
  | callNnn nnn =>
    obtain ⟨_, he⟩ | ⟨-, he⟩ := execCallNnn_cases nnn s <;> (cases he.symm.trans h; rfl)
  | ret =>
    obtain ⟨_, he⟩ | ⟨-, he⟩ := execRet_cases s <;> (cases he.symm.trans h; rfl)
  | addIVx x =>
    obtain ⟨-, he⟩ | ⟨-, he⟩ := execAddIVx_cases x s <;> (cases he.symm.trans h; rfl)
  | skpVx x =>
    obtain ⟨_, he⟩ | ⟨-, he⟩ := execSkpVx_cases x s <;> cases he.symm.trans h
    · exact s.skipIf_getV _ r
    · rfl
  | sknpVx x =>
    obtain ⟨_, he⟩ | ⟨-, he⟩ := execSknpVx_cases x s <;> cases he.symm.trans h
    · exact s.skipIf_getV _ r
    · rfl
  | ldVxK x =>
    obtain ⟨-, -, he⟩ | ⟨k, -, -, he⟩ | ⟨k, -, -, he⟩ | ⟨k, c, -, -, he⟩ :=
      execLdVxK_cases x s <;> cases he.symm.trans h
    · rfl
    · rfl
    · rfl
    · exact State.setV_getV_ne s (ne_of_beq_false hr) _
  | drwVxVyN =>
    cases h
    exact drawRows_getV_ne _ _ _ _ _ _ s (ne_of_beq_false hr)
  | ldBVx | ldMiVx =>
    cases h
    rw [storeBytes_frame]
    rfl
  | ldVxMi x =>
    cases h
    refine loadRegs_getV_of_not_mem _ s _ fun hmem => of_decide_eq_false hr ?_
    exact Nat.le_of_lt_succ ((mem_take_finRange _ r).1 hmem)

/-- An instruction that defines a flag and takes no fault leaves a flag in `VF`. -/
theorem exec_getV_regF_of_definesFlag (hi : definesFlag i = true) (h : exec i s = .next t) (ht : t.flt = none) :
    ∃ c, t.getV regF = flagByte c := by
  cases i with
  | addVxVy | subVxVy | shrVx | subnVxVy | shlVx =>
    cases h
    exact ⟨_, s.setResultAndFlag_getV_regF _ _ _⟩
  | drwVxVyN =>
    cases h
    exact drawRows_getV_regF _ _ _ _ _ _ s ht
  | _ => cases hi

end Sys2Proof.Machine

namespace Sys2Proof.Proofs

open Sys2Proof.Machine

/-- Settles O50, by cases on the instruction. -/
theorem registersFrame : Obligations.RegistersFrame :=
  fun _ _ _ _ h hr => exec_getV_of_not_writesRegister hr h

/-- Settles O51: what is left in `VF` is a flag, the byte 0 or 1. -/
theorem flagIsZeroOrOne : Obligations.FlagIsZeroOrOne := by
  intro i s t hi _ h ht
  obtain ⟨c, hc⟩ := exec_getV_regF_of_definesFlag hi h ht
  rw [hc]
  exact flagByte_eq_zero_or_one c

end Sys2Proof.Proofs
end

section
/-!
SUPPORT. The events other than a step that decodes: what they leave of the fault record, and the values after reset.
-/

namespace Sys2Proof.Machine

variable {s t : State}

/-! ### One event -/

theorem step_of_agenda_nil (h : s.agenda = []) : step s = engineStep s := by
  rw [step, nextEvent_nil h]
  rfl

theorem step_of_agenda_cons {e : Event} {rest : List Event} (h : s.agenda = e :: rest) :
    step s = perform e { s with agenda := rest } := by
  rw [step, nextEvent_cons h]

/-! ### A recorded fault (40_engine_step.md R127) -/

theorem engineStep_of_fault {f : FaultRecord} (hf : s.flt = some f) : engineStep s = .next s := by
  simp only [engineStep, hf]

theorem timerTick_of_fault {f : FaultRecord} (hf : s.flt = some f) : timerTick s = s := by
  simp only [timerTick, hf]

/-- A load on a faulted core has no transition (20_memory.md R77). -/
theorem loadRom_of_fault {f : FaultRecord} (hf : s.flt = some f) (rom : List Byte) :
    loadRom rom s = .fault .loadHasNoTransition := by
  simp [loadRom, hf]

/-- An event other than `reset` leaves a recorded fault as it is. -/
theorem perform_keeps_fault {e : Event} {f : FaultRecord} (he : e ≠ .reset) (hf : s.flt = some f)
    (h : perform e s = .next t) : t.flt = some f := by
  cases e with
  | step =>
    cases (engineStep_of_fault hf).symm.trans h
    exact hf
  | timerTick =>
    cases h
    rw [timerTick_of_fault hf]
    exact hf
  | reset => exact absurd rfl he
  | load rom => cases (loadRom_of_fault hf rom).symm.trans h
  | drive p =>
    cases h
    exact hf

/-! ### The values after reset (10_state.md R39) -/

theorem Memory.read_initial_outside_font (font : Vector Byte 80) {a : Nat} (ha : a < 0x50 ∨ 0xA0 ≤ a) :
    (Memory.initial font).read a = 0 := by
  rw [Memory.read_initial, Memory.background, dif_neg (by omega)]
  rfl

theorem Memory.read_initial_font (font : Vector Byte 80) (j : Fin 80) :
    (Memory.initial font).read (0x50 + j.val) = font[j] := by
  rw [Memory.read_initial, Memory.background, dif_pos (by omega)]
  simp [Memory.initial]

theorem State.reset_getV (x : Reg) : State.reset.getV x = 0 :=
  Vector.getElem_replicate _

theorem State.reset_stk (j : Fin 16) : State.reset.stk[j] = 0 :=
  Vector.getElem_replicate _

end Sys2Proof.Machine

namespace Sys2Proof.Proofs

open Sys2Proof.Machine

/-- Settles O38, by cases on the next event: every one but `reset` keeps the record, and `reset` leaves none. -/
theorem onlyResetClearsFault : Obligations.OnlyResetClearsFault := by
  intro s t f hf h
  cases ha : s.agenda with
  | nil =>
    rw [step_of_agenda_nil ha, engineStep_of_fault hf] at h
    cases h
    exact .inl hf
  | cons e rest =>
    rw [step_of_agenda_cons ha] at h
    by_cases he : e = .reset
    · subst he
      cases h
      exact .inr ⟨rfl, rest, rfl⟩
    · exact .inl (perform_keeps_fault (s := { s with agenda := rest }) he hf h)

/-- Settles O40: the scalar values by definition, the registers, slots, pixels and bytes by a lemma each. -/
theorem resetStateValues : Obligations.ResetStateValues :=
  ⟨rfl, rfl, rfl, State.reset_getV, rfl, rfl, rfl, rfl, rfl, rfl, State.reset_stk, pixelAt_clearGrid,
    fun _ ha => Memory.read_initial_outside_font _ ha, Memory.read_initial_font _⟩

/-- Settles O60: a drive event writes the ports. -/
theorem driveChangesOnlyInputs : Obligations.DriveChangesOnlyInputs :=
  fun _ _ _ h => step_of_agenda_cons h

end Sys2Proof.Proofs
end

section
/-!
SUPPORT. What the bytes placed in main memory read as (20_memory.md R62, R63), the load and store operations that place
them (R77, R184), the bits of the pixel port (R78), and that only a load out of turn has no next state.
-/

namespace Sys2Proof.Machine

variable {s : State}

/-! ### Consecutive bytes -/

theorem Memory.read_writeBytes_getElem (m : Memory) (a : Nat) (bs : List Byte) {j : Nat} (hj : j < bs.length) :
    (m.writeBytes a bs).read (a + j) = bs[j] := by
  simp [Memory.read_writeBytes, hj]

theorem Memory.read_writeBytes_outside (m : Memory) {a a' : Nat} {bs : List Byte}
    (h : a' < a ∨ a + bs.length ≤ a') : (m.writeBytes a bs).read a' = m.read a' := by
  rw [Memory.read_writeBytes, dif_neg (by omega)]

/-- The block `V0..Vx` placed in memory reads as register `Vj` at its `j`-th address (43_memory_address.md R184). -/
theorem Memory.read_writeBytes_bytesUpTo (m : Memory) (a : Nat) (s : State) {x j : Reg} (hj : j.val ≤ x.val) :
    (m.writeBytes a (s.bytesUpTo x)).read (a + j.val) = s.getV j := by
  have hlen : j.val < (s.bytesUpTo x).length := by rw [State.bytesUpTo_length]; omega
  rw [Memory.read_writeBytes_getElem _ _ _ hlen, State.bytesUpTo_getElem]

/-- `Fx55` with its last address valid stores all of `V0..Vx` and changes nothing else (R184). -/
theorem execLdMiVx_of_valid {x : Reg} (h : s.i.toNat + x.val < s.lsz.val) :
    execLdMiVx x s = .next (s.setMem (s.mem.writeBytes s.i.toNat (s.bytesUpTo x))) := by
  have hfit : s.dataAddress 0 + (s.bytesUpTo x).length ≤ s.lsz.val := by
    rw [State.bytesUpTo_length, State.dataAddress]; omega
  rw [execLdMiVx, storeBytes_eq _ _ _ _ (s.bytesUpTo_ne_nil x), if_pos hfit]
  rfl

/-- A fetch with both addresses valid answers the two bytes at `PC` (40_engine_step.md R121). -/
theorem State.fetch_of_valid (h : s.pc.toNat + 1 < s.lsz.val) :
    s.fetch = .ok (opcodeOf (s.mem.read s.pc.toNat) (s.mem.read (s.pc.toNat + 1))) := by
  obtain ⟨hlsz, -⟩ | ⟨hlsz, -⟩ | ⟨-, hf⟩ := s.fetch_cases
  · omega
  · omega
  · exact hf

/-! ### The load operation (20_memory.md R77) -/

theorem romWellFormed_iff (rom : List Byte) : romWellFormed rom = true ↔ rom.length ≤ 3584 := by
  simp [romWellFormed]

theorem loadRom_of_wellFormed {rom : List Byte} (hlsz : s.lsz.val = 0) (hflt : s.flt = none)
    (hlen : rom.length ≤ 3584) :
    loadRom rom s =
      .next { s.setMem (s.mem.writeBytes 0x200 rom) with lsz := ⟨0x200 + rom.length, by omega⟩ } := by
  rw [loadRom, if_pos ⟨hlsz, hflt⟩, dif_pos hlen]

/-- A too long image changes nothing (decision D10). -/
theorem loadRom_of_tooLong {rom : List Byte} (hlsz : s.lsz.val = 0) (hflt : s.flt = none)
    (hlen : ¬rom.length ≤ 3584) : loadRom rom s = .next s := by
  rw [loadRom, if_pos ⟨hlsz, hflt⟩, dif_neg hlen]

theorem loadRom_outOfTurn {rom : List Byte} (h : s.lsz.val ≠ 0 ∨ s.flt ≠ none) :
    loadRom rom s = .fault .loadHasNoTransition := by
  rw [loadRom, if_neg (by tauto)]

/-! ### Which events have a next state -/

/-- Every instruction answers a next state: its fatal conditions are next states too (R126). -/
theorem exec_eq_next (i : Instr) (s : State) : ∃ t, exec i s = .next t := by
  cases i with
  | cls | jpNnn | jpV0Nnn | seVxNn | sneVxNn | seVxVy | sneVxVy | ldVxNn | addVxNn | ldVxVy | orVxVy | andVxVy
  | xorVxVy | addVxVy | subVxVy | shrVx | subnVxVy | shlVx | ldINnn | rndVxNn | drwVxVyN | ldVxDt | ldDtVx | ldStVx
  | ldFVx | ldBVx | ldMiVx | ldVxMi => exact ⟨_, rfl⟩
  | callNnn nnn => obtain ⟨_, h⟩ | ⟨-, h⟩ := execCallNnn_cases nnn s <;> exact ⟨_, h⟩
  | ret => obtain ⟨_, h⟩ | ⟨-, h⟩ := execRet_cases s <;> exact ⟨_, h⟩
  | skpVx x => obtain ⟨_, h⟩ | ⟨-, h⟩ := execSkpVx_cases x s <;> exact ⟨_, h⟩
  | sknpVx x => obtain ⟨_, h⟩ | ⟨-, h⟩ := execSknpVx_cases x s <;> exact ⟨_, h⟩
  | addIVx x => obtain ⟨-, h⟩ | ⟨-, h⟩ := execAddIVx_cases x s <;> exact ⟨_, h⟩
  | ldVxK x =>
    obtain ⟨-, -, h⟩ | ⟨_, -, -, h⟩ | ⟨_, -, -, h⟩ | ⟨_, _, -, -, h⟩ := execLdVxK_cases x s <;> exact ⟨_, h⟩

theorem engineStep_eq_next (s : State) : ∃ t, engineStep s = .next t := by
  obtain ⟨-, h⟩ | ⟨-, _, -, h⟩ | ⟨-, -, _, _, -, -, h⟩ | ⟨-, -, _, i, -, -, h⟩ := engineStep_cases s
  · exact ⟨_, h⟩
  · exact ⟨_, h⟩
  · exact ⟨_, h⟩
  · obtain ⟨t, ht⟩ := exec_eq_next i s.advance
    exact ⟨t, h.trans ht⟩

/-- An event has a next state, or it is a load out of turn. -/
theorem perform_eq_next_or_load (e : Event) (s : State) :
    (∃ t, perform e s = .next t) ∨ ∃ rom, e = .load rom ∧ (s.lsz.val ≠ 0 ∨ s.flt ≠ none) := by
  cases e with
  | step => exact .inl (engineStep_eq_next s)
  | timerTick | reset | drive => exact .inl ⟨_, rfl⟩
  | load rom =>
    obtain ⟨-, -, _, h⟩ | ⟨-, -, -, h⟩ | ⟨hturn, -⟩ := loadRom_cases rom s
    · exact .inl ⟨_, h⟩
    · exact .inl ⟨_, h⟩
    · exact .inr ⟨rom, rfl, by tauto⟩

/-- A load out of turn stops the machine (R77). -/
theorem step_of_load_outOfTurn {rom : List Byte} {rest : List Event} (ha : s.agenda = .load rom :: rest)
    (h : s.lsz.val ≠ 0 ∨ s.flt ≠ none) : step s = .fault .loadHasNoTransition :=
  (step_of_agenda_cons ha).trans (loadRom_outOfTurn h)

/-! ### The pixel port (R78) -/

/-- Folding bits into a number puts the `i`-th of the list at bit `i`. -/
theorem testBit_foldr_bit (bs : List Bool) (i : Nat) : (bs.foldr Nat.bit 0).testBit i = bs.getD i false := by
  induction bs generalizing i with
  | nil => simp
  | cons b bs ih =>
    cases i with
    | zero => exact Nat.testBit_bit_zero b _
    | succ i => exact (Nat.testBit_bit_succ i b _).trans (ih i)

theorem gridCells_eq_flatten (g : Grid) : gridCells g = g.flatten.toList := by
  change g.toList.flatMap Vector.toList = (g.toArray.map Vector.toArray).flatten.toList
  rw [Array.toList_flatten, Array.toList_map, List.map_map, List.flatMap_def]
  rfl

/-- Cell `(x, y)` is element `y*64 + x` of the storage order (R78). -/
theorem gridCells_getD (g : Grid) {x y : Nat} (hx : x < 64) (hy : y < 32) :
    (gridCells g).getD (y * 64 + x) false = pixelAt g x y := by
  have hlt : y * 64 + x < 32 * 64 := by omega
  have hrow : (y * 64 + x) / 64 = y := by omega
  have hcol : (y * 64 + x) % 64 = x := by omega
  rw [gridCells_eq_flatten, pixelAt, dif_pos ⟨hx, hy⟩, List.getD_eq_getElem _ _ (by simpa),
    Vector.getElem_toList, Vector.getElem_flatten]
  simp only [hrow, hcol]

end Sys2Proof.Machine

namespace Sys2Proof.Proofs

open Sys2Proof.Machine

/-- Settles O22: the store is the whole block, and the two bytes under `PC` are its `j`-th and the next. -/
theorem fetchSeesStoredBytes : Obligations.FetchSeesStoredBytes := by
  intro x j s t hj hvalid h hpc
  cases (execLdMiVx_of_valid hvalid).symm.trans h
  have hhigh := s.mem.read_writeBytes_bytesUpTo s.i.toNat s (Nat.le_of_lt hj)
  have hlow := s.mem.read_writeBytes_bytesUpTo s.i.toNat s (j := ⟨j.val + 1, by omega⟩) hj
  refine ⟨_, State.fetch_of_valid (by simp; omega), ?_⟩
  rw [opcodeOf_toNat, State.setMem_pc, State.setMem_mem, hpc, hhigh, Nat.add_assoc, hlow]

/-- Settles O32: the port's bits are the cells in storage order. -/
theorem pixelPortIsRowMajor : Obligations.PixelPortIsRowMajor := by
  intro s x y hx hy
  have hbit : y * 64 + x < 2048 := by omega
  rw [State.gfxOut, BitVec.getLsbD_ofNat, testBit_foldr_bit, gridCells_getD _ hx hy, decide_eq_true hbit,
    Bool.true_and]

/-- Settles O42: the load writes the image's bytes at consecutive addresses. -/
theorem loadPlacesImage : Obligations.LoadPlacesImage := by
  intro s rom rest ha hlsz hflt hwf
  have hlen := (romWellFormed_iff rom).1 hwf
  refine ⟨_, (step_of_agenda_cons ha).trans (loadRom_of_wellFormed (s := { s with agenda := rest }) hlsz hflt hlen),
    rfl, rfl, ?_, ?_⟩
  · exact fun j hj => s.mem.read_writeBytes_getElem 0x200 rom hj
  · exact fun a hout => s.mem.read_writeBytes_outside hout

/-- Settles O43: every event but a load out of turn has a next state, and a too long image is its own case of the load. -/
theorem onlyRepeatedLoadStops : Obligations.OnlyRepeatedLoadStops := by
  refine ⟨fun s => ?_, fun s rom rest => step_of_load_outOfTurn, fun s rom rest ha hlsz hflt hwf => ?_⟩
  · cases ha : s.agenda with
    | nil => exact .inl (step_of_agenda_nil ha ▸ engineStep_eq_next s)
    | cons e rest =>
      obtain ⟨t, ht⟩ | ⟨rom, rfl, hturn⟩ := perform_eq_next_or_load e { s with agenda := rest }
      · exact .inl ⟨t, (step_of_agenda_cons ha).trans ht⟩
      · exact .inr ⟨rom, rest, rfl, hturn, step_of_load_outOfTurn ha hturn⟩
  · have hlen : ¬rom.length ≤ 3584 := by simp [← romWellFormed_iff, hwf]
    exact (step_of_agenda_cons ha).trans (loadRom_of_tooLong hlsz hflt hlen)

end Sys2Proof.Proofs
end

section
/-!
SUPPORT. The decoder and the encoder invert each other, the opcodes the decoder refuses, sub-kind by sub-kind
(30_encoding.md R94 to R101), and the rows of the opcode table a word selects (R107).
-/

namespace Sys2Proof

variable {op : Word} {i : Instr} {e : IllegalOpcode}

/-! ### Decoding the word of an instruction -/

theorem decode_of_class_ne_zero (h : fieldUpper op ≠ 0) : decode op = decodeByClass op := by
  have hcls : op ≠ 0x00E0#16 := fun he => h (he ▸ rfl)
  have hret : op ≠ 0x00EE#16 := fun he => h (he ▸ rfl)
  rw [decode, if_neg hcls, if_neg hret]

/-- The fields of a word are the operands it was written from, and its class and selector lead the decoder back to the
constructor. -/
@[simp] theorem decode_encode (i : Instr) : decode (encode i) = .ok i := by
  cases i with
  | cls | ret => rfl
  | ldVxVy | orVxVy | andVxVy | xorVxVy | addVxVy | subVxVy | shrVx | subnVxVy | shlVx =>
    rw [encode, decode_of_class_ne_zero (by simp)]
    simp [decodeByClass, decodeClass8]
  | skpVx | sknpVx =>
    rw [encode, decode_of_class_ne_zero (by simp)]
    simp [decodeByClass, decodeClassE]
  | ldVxDt | ldVxK | ldDtVx | ldStVx | addIVx | ldFVx | ldBVx | ldMiVx | ldVxMi =>
    rw [encode, decode_of_class_ne_zero (by simp)]
    simp [decodeByClass, decodeClassF]
  | _ =>
    rw [encode, decode_of_class_ne_zero (by simp)]
    simp [decodeByClass]

/-! ### What the decoder answers -/

/-- The opcode is illegal with this sub-kind, in terms of its fields (R100, decision D28). -/
def IllegalAs (op : Word) : IllegalOpcode → Prop
  | .unknownOpcode =>
    (fieldUpper op = 0x0 ∧ op ≠ 0x00E0 ∧ op ≠ 0x00EE) ∨ (fieldUpper op = 0xE ∧ fieldNn op ∉ [0x9E#8, 0xA1#8]) ∨
      (fieldUpper op = 0xF ∧ fieldNn op ∉ [0x07#8, 0x0A#8, 0x15#8, 0x18#8, 0x1E#8, 0x29#8, 0x33#8, 0x55#8, 0x65#8])
  | .unknownOperation =>
    fieldUpper op = 0x8 ∧ fieldN op ∉ [0x0#4, 0x1#4, 0x2#4, 0x3#4, 0x4#4, 0x5#4, 0x6#4, 0x7#4, 0xE#4]
  | .malformedOpcode => (fieldUpper op = 0x5 ∨ fieldUpper op = 0x9) ∧ fieldN op ≠ 0

/-- The decoder's answer says what the opcode is: the word of an instruction, or illegal with a sub-kind. -/
def Classifies (op : Word) : Except IllegalOpcode Instr → Prop
  | .ok i => encode i = op
  | .error e => IllegalAs op e

theorem encodeNnn_of_class {c : BitVec 4} (hc : fieldUpper op = c) : encodeNnn c (fieldNnn op) = op :=
  hc ▸ encodeNnn_fields op

theorem encodeXnn_of_class {c : BitVec 4} (hc : fieldUpper op = c) : encodeXnn c (fieldX op) (fieldNn op) = op :=
  hc ▸ encodeXnn_fields op

theorem encodeXyn_of_class {c : BitVec 4} (hc : fieldUpper op = c) :
    encodeXyn c (fieldX op) (fieldY op) (fieldN op) = op :=
  hc ▸ encodeXyn_fields op

theorem decodeClass8_classifies (hc : fieldUpper op = 0x8) : Classifies op (decodeClass8 op) := by
  have hop := encodeXyn_of_class hc
  unfold decodeClass8
  split
  case h_10 => exact ⟨hc, by simp_all⟩
  all_goals next hn => rwa [hn] at hop

theorem decodeClassE_classifies (hc : fieldUpper op = 0xE) : Classifies op (decodeClassE op) := by
  have hop := encodeXnn_of_class hc
  unfold decodeClassE
  split
  case h_3 => exact .inr (.inl ⟨hc, by simp_all⟩)
  all_goals next hnn => rwa [hnn] at hop

theorem decodeClassF_classifies (hc : fieldUpper op = 0xF) : Classifies op (decodeClassF op) := by
  have hop := encodeXnn_of_class hc
  unfold decodeClassF
  split
  case h_10 => exact .inr (.inr ⟨hc, by simp_all⟩)
  all_goals next hnn => rwa [hnn] at hop

theorem decodeByClass_classifies (hcls : op ≠ 0x00E0) (hret : op ≠ 0x00EE) :
    Classifies op (decodeByClass op) := by
  unfold decodeByClass
  split
  case h_1 hc => exact .inl ⟨hc, hcls, hret⟩
  case h_2 hc | h_3 hc | h_11 hc | h_12 hc => exact encodeNnn_of_class hc
  case h_4 hc | h_5 hc | h_7 hc | h_8 hc | h_13 hc => exact encodeXnn_of_class hc
  case h_6 hc | h_10 hc =>
    have hop := encodeXyn_of_class hc
    split_ifs with hn
    · rwa [hn] at hop
    · exact ⟨by simp [hc], hn⟩
  case h_9 hc => exact decodeClass8_classifies hc
  case h_14 hc => exact encodeXyn_of_class hc
  case h_15 hc => exact decodeClassE_classifies hc
  case h_16 =>
    have hc : fieldUpper op = 0xF := by
      clear hcls hret
      generalize fieldUpper op = c at *
      decide +revert
    exact decodeClassF_classifies hc

theorem decode_classifies (op : Word) : Classifies op (decode op) := by
  unfold decode
  split_ifs with hcls hret
  · exact hcls.symm
  · exact hret.symm
  · exact decodeByClass_classifies hcls hret

theorem encode_of_decode (h : decode op = .ok i) : encode i = op := by
  have hop := decode_classifies op
  rwa [h] at hop

theorem illegalAs_of_decode (h : decode op = .error e) : IllegalAs op e := by
  have hop := decode_classifies op
  rwa [h] at hop

theorem encode_not_illegalAs (i : Instr) (e : IllegalOpcode) : ¬IllegalAs (encode i) e := by
  cases i with
  | cls | ret => cases e <;> simp [IllegalAs, encode, fieldUpper]
  | _ => cases e <;> simp [IllegalAs, encode]

/-- The sub-kind of the illegal opcodes of a class; each class has only one. -/
def subKindOfClass (c : BitVec 4) : IllegalOpcode :=
  if c = 0x8 then .unknownOperation else if c = 0x5 ∨ c = 0x9 then .malformedOpcode else .unknownOpcode

theorem IllegalAs.eq_subKindOfClass (h : IllegalAs op e) : e = subKindOfClass (fieldUpper op) := by
  cases e with
  | unknownOpcode => rcases h with ⟨hc, -⟩ | ⟨hc, -⟩ | ⟨hc, -⟩ <;> rw [hc] <;> rfl
  | unknownOperation => rw [h.1]; rfl
  | malformedOpcode => rcases h with ⟨hc | hc, -⟩ <;> rw [hc] <;> rfl

theorem decode_eq_error_iff : decode op = .error e ↔ IllegalAs op e := by
  refine ⟨illegalAs_of_decode, fun h => ?_⟩
  cases hd : decode op with
  | ok i => exact absurd (encode_of_decode hd ▸ h) (encode_not_illegalAs i e)
  | error e' => rw [h.eq_subKindOfClass, (illegalAs_of_decode hd).eq_subKindOfClass]

/-! ### The rows of the table that a word selects -/

variable {row row' : String × Word × Word}

theorem rowSelects_iff : rowSelects row op = true ↔ op &&& row.2.1 = row.2.2 :=
  beq_iff_eq

theorem fieldUpper_of_rowSelects (hs : rowSelects row op = true) (hmask : fieldUpper row.2.1 = 0xF) :
    fieldUpper op = fieldUpper row.2.2 := by
  rw [← rowSelects_iff.1 hs, fieldUpper, fieldUpper, BitVec.extractLsb'_and, ← fieldUpper, ← fieldUpper, hmask]
  exact (nibble_and_ones _).symm

theorem fieldN_of_rowSelects (hs : rowSelects row op = true) (hmask : fieldN row.2.1 = 0xF) :
    fieldN op = fieldN row.2.2 := by
  rw [← rowSelects_iff.1 hs, fieldN, fieldN, BitVec.extractLsb'_and, ← fieldN, ← fieldN, hmask]
  exact (nibble_and_ones _).symm

theorem fieldNn_of_rowSelects (hs : rowSelects row op = true) (hmask : fieldNn row.2.1 = 0xFF) :
    fieldNn op = fieldNn row.2.2 := by
  rw [← rowSelects_iff.1 hs, fieldNn, fieldNn, BitVec.extractLsb'_and, ← fieldNn, ← fieldNn, hmask]
  exact (byte_and_ones _).symm

/-! The mask of each row covers the class and what its class is dispatched by. -/

theorem opcodeTable_mask_class : ∀ row ∈ opcodeTable, fieldUpper row.2.1 = 0xF := by decide

theorem opcodeTable_mask_of_class0 :
    ∀ row ∈ opcodeTable, fieldUpper row.2.2 = 0x0 → row.2.1 = BitVec.allOnes 16 := by decide

theorem opcodeTable_mask_of_class589 :
    ∀ row ∈ opcodeTable, fieldUpper row.2.2 ∈ [0x5#4, 0x8#4, 0x9#4] → fieldN row.2.1 = 0xF := by decide

theorem opcodeTable_mask_of_classEF :
    ∀ row ∈ opcodeTable, fieldUpper row.2.2 ∈ [0xE#4, 0xF#4] → fieldNn row.2.1 = 0xFF := by decide

theorem opcodeTable_match_decodes : ∀ row ∈ opcodeTable, (decode row.2.2).isOk = true := by decide

/-- Any two rows demand different values of a bit that both masks keep. -/
theorem opcodeTable_pairwise_conflict :
    opcodeTable.Pairwise fun row row' => row.2.2 &&& row'.2.1 ≠ row'.2.2 &&& row.2.1 := by decide

/-- A row cannot tell a word from the row's own match word in anything that decides legality. -/
theorem IllegalAs.of_rowSelects (h : IllegalAs op e) (hr : row ∈ opcodeTable) (hs : rowSelects row op = true) :
    IllegalAs row.2.2 e := by
  have hclass := fieldUpper_of_rowSelects hs (opcodeTable_mask_class row hr)
  cases e with
  | unknownOpcode =>
    rcases h with ⟨hc, hword⟩ | ⟨hc, hnn⟩ | ⟨hc, hnn⟩ <;> rw [hclass] at hc
    · have hop := rowSelects_iff.1 hs
      rw [opcodeTable_mask_of_class0 row hr hc, BitVec.and_allOnes] at hop
      exact .inl ⟨hc, hop ▸ hword⟩
    · have hsel := fieldNn_of_rowSelects hs (opcodeTable_mask_of_classEF row hr (by simp [hc]))
      exact .inr (.inl ⟨hc, hsel ▸ hnn⟩)
    · have hsel := fieldNn_of_rowSelects hs (opcodeTable_mask_of_classEF row hr (by simp [hc]))
      exact .inr (.inr ⟨hc, hsel ▸ hnn⟩)
  | unknownOperation =>
    obtain ⟨hc, hn⟩ := h
    rw [hclass] at hc
    have hsel := fieldN_of_rowSelects hs (opcodeTable_mask_of_class589 row hr (by simp [hc]))
    exact ⟨hc, hsel ▸ hn⟩
  | malformedOpcode =>
    obtain ⟨hc, hn⟩ := h
    rw [hclass] at hc
    have hsel := fieldN_of_rowSelects hs
      (opcodeTable_mask_of_class589 row hr (by rcases hc with hc | hc <;> simp [hc]))
    exact ⟨hc, hsel ▸ hn⟩

theorem filter_rowSelects_of_illegalAs (h : IllegalAs op e) :
    (opcodeTable.filter fun row => rowSelects row op) = [] := by
  refine List.filter_eq_nil_iff.2 fun row hr hs => ?_
  have hok := opcodeTable_match_decodes row hr
  rw [decode_eq_error_iff.2 (h.of_rowSelects hr hs)] at hok
  cases hok

theorem rowSelects_conflict (hs : rowSelects row op = true) (hs' : rowSelects row' op = true) :
    row.2.2 &&& row'.2.1 = row'.2.2 &&& row.2.1 := by
  rw [← rowSelects_iff.1 hs, ← rowSelects_iff.1 hs', BitVec.and_assoc, BitVec.and_assoc, BitVec.and_comm row.2.1]

/-- No word selects two rows, so a selected row is the only one. -/
theorem filter_rowSelects_of_mem (hr : row ∈ opcodeTable) (hs : rowSelects row op = true) :
    (opcodeTable.filter fun row => rowSelects row op) = [row] := by
  have hmem : row ∈ opcodeTable.filter fun row => rowSelects row op := List.mem_filter.2 ⟨hr, hs⟩
  have hsel : ∀ row' ∈ opcodeTable.filter fun row => rowSelects row op, rowSelects row' op = true :=
    fun _ h => (List.mem_filter.1 h).2
  have hpair := opcodeTable_pairwise_conflict.filter fun row => rowSelects row op
  generalize (opcodeTable.filter fun row => rowSelects row op) = rows at *
  match rows with
  | [] => cases hmem
  | [a] => rw [List.mem_singleton.1 hmem]
  | a :: b :: _ =>
    exact absurd (rowSelects_conflict (hsel a (by simp)) (hsel b (by simp))) (List.rel_of_pairwise_cons hpair (by simp))

/-- Every instruction has its row (family `RowOf`). -/
theorem rowOf_instr : ∀ i : Instr, Laws.RowOf.Statement i
  | .cls => Laws.RowOf.cls
  | .ret => Laws.RowOf.ret
  | .jpNnn nnn => Laws.RowOf.jpNnn nnn
  | .callNnn nnn => Laws.RowOf.callNnn nnn
  | .seVxNn x nn => Laws.RowOf.seVxNn x nn
  | .sneVxNn x nn => Laws.RowOf.sneVxNn x nn
  | .seVxVy x y => Laws.RowOf.seVxVy x y
  | .ldVxNn x nn => Laws.RowOf.ldVxNn x nn
  | .addVxNn x nn => Laws.RowOf.addVxNn x nn
  | .ldVxVy x y => Laws.RowOf.ldVxVy x y
  | .orVxVy x y => Laws.RowOf.orVxVy x y
  | .andVxVy x y => Laws.RowOf.andVxVy x y
  | .xorVxVy x y => Laws.RowOf.xorVxVy x y
  | .addVxVy x y => Laws.RowOf.addVxVy x y
  | .subVxVy x y => Laws.RowOf.subVxVy x y
  | .shrVx x y => Laws.RowOf.shrVx x y
  | .subnVxVy x y => Laws.RowOf.subnVxVy x y
  | .shlVx x y => Laws.RowOf.shlVx x y
  | .sneVxVy x y => Laws.RowOf.sneVxVy x y
  | .ldINnn nnn => Laws.RowOf.ldINnn nnn
  | .jpV0Nnn nnn => Laws.RowOf.jpV0Nnn nnn
  | .rndVxNn x nn => Laws.RowOf.rndVxNn x nn
  | .drwVxVyN x y n => Laws.RowOf.drwVxVyN x y n
  | .skpVx x => Laws.RowOf.skpVx x
  | .sknpVx x => Laws.RowOf.sknpVx x
  | .ldVxDt x => Laws.RowOf.ldVxDt x
  | .ldVxK x => Laws.RowOf.ldVxK x
  | .ldDtVx x => Laws.RowOf.ldDtVx x
  | .ldStVx x => Laws.RowOf.ldStVx x
  | .addIVx x => Laws.RowOf.addIVx x
  | .ldFVx x => Laws.RowOf.ldFVx x
  | .ldBVx x => Laws.RowOf.ldBVx x
  | .ldMiVx x => Laws.RowOf.ldMiVx x
  | .ldVxMi x => Laws.RowOf.ldVxMi x

end Sys2Proof

namespace Sys2Proof.Proofs

/-- Settles O46: an instruction's word decodes to it, class by class. -/
theorem decodeOfEncode : Obligations.DecodeOfEncode := decode_encode

/-- Settles O47: what the decoder accepts is put together again from its fields. -/
theorem encodeOfDecode : Obligations.EncodeOfDecode := fun _ _ => encode_of_decode

/-- Settles O48: an instruction's word selects its row and no other; a row that an illegal opcode selected would have an
illegal match word. -/
theorem decoderAgreesWithTable : Obligations.DecoderAgreesWithTable := by
  intro op
  cases hd : decode op with
  | ok i =>
    obtain ⟨row, hr, hname, hs⟩ := rowOf_instr i
    rw [encode_of_decode hd] at hs
    rw [filter_rowSelects_of_mem hr hs, List.map_singleton, hname]
  | error e => rw [filter_rowSelects_of_illegalAs (illegalAs_of_decode hd), List.map_nil]

/-- Settles O49: the refused opcodes by their fields, and the fields as numbers. -/
theorem illegalOpcodesBySubKind : Obligations.IllegalOpcodesBySubKind := by
  intro op
  simp only [decode_eq_error_iff, IllegalAs, List.mem_cons, List.not_mem_nil, or_false, ← BitVec.toNat_inj,
    fieldUpper_toNat, fieldN_toNat, fieldNn_toNat, BitVec.ofNat_eq_ofNat, BitVec.toNat_ofNat, ne_eq,
    and_true, true_and]
  omega

/-- Settles O44: each field as a number, and the overlaps by arithmetic. -/
theorem fieldExtraction : Obligations.FieldExtraction := by
  refine ⟨fun op => ⟨fieldUpper_toNat op, fieldX_val op, fieldY_val op, fieldN_toNat op, fieldNn_toNat op,
    fieldNnn_toNat op, ?_, ?_⟩, by decide⟩
  · rw [fieldNn_toNat, fieldY_val, fieldN_toNat]
    omega
  · rw [fieldNnn_toNat, fieldX_val, fieldNn_toNat]
    omega

/-- Settles O45: each of the words is the word of its instruction. -/
theorem sampleWordsDecode : Obligations.SampleWordsDecode :=
  ⟨decode_encode .cls, decode_encode .ret, decode_encode (.addVxVy 0xA 0xB), decode_encode (.drwVxVyN 7 0xF 5),
    decode_encode (.ldVxMi 3), decode_encode (.sknpVx 0), decode_encode (.jpV0Nnn 0xFFF),
    decode_encode (.shrVx 0xC 9)⟩

end Sys2Proof.Proofs
end

section
/-!
SUPPORT. The execution step after its fetch (40_engine_step.md R120 to R122), and that an instruction that reads no
input gives the same result whatever levels the host presents, and passes them on (R128, 44_timer_key.md R209).
`drivePorts p` is the host's change of the levels.
-/

namespace Sys2Proof.Machine

variable (p : Ports) {s t : State} {i : Instr} {op : Word}

/-! ### The execution step -/

/-- A state that fetches the word `op` by its bytes answers `op` (20_memory.md R64). -/
theorem State.Fetches.fetch_eq (h : s.Fetches op) : s.fetch = .ok op := by
  rw [State.fetch_of_valid h.inBounds, h.high, h.low, opcodeOf_bytes]

/-- A fetch with an address out of bounds answers the first such address (R121, decision D34). -/
theorem State.fetch_of_invalid (h : s.lsz.val ≤ s.pc.toNat + 1) :
    s.fetch = .error (if s.lsz.val ≤ s.pc.toNat then s.pc.toNat else s.pc.toNat + 1) := by
  obtain ⟨hfirst, hf⟩ | ⟨hsecond, hf⟩ | ⟨hvalid, -⟩ := s.fetch_cases
  · rw [if_pos hfirst, hf]
  · rw [if_neg (by omega), hf]
  · omega

theorem engineStep_of_fetch_error {a : Nat} (hrun : s.flt = none) (hf : s.fetch = .error a) :
    engineStep s = .next (s.raise (.memoryBoundsError .fetch) 0 a) := by
  simp only [engineStep, hrun, hf]

theorem engineStep_of_decode (hrun : s.flt = none) (hf : s.fetch = .ok op) (hd : decode op = .ok i) :
    engineStep s = exec i s.advance := by
  simp only [engineStep, hrun, hf, hd]

/-! ### The state operations under other levels -/

theorem State.skipIf_drivePorts (c : Bool) (s : State) : (drivePorts p s).skipIf c = drivePorts p (s.skipIf c) := by
  cases c <;> rfl

theorem State.push_drivePorts (w : Word) (s : State) : (drivePorts p s).push w = (s.push w).map (drivePorts p) := by
  rw [State.push, State.push, apply_dite (Option.map (drivePorts p))]
  rfl

theorem State.pop_drivePorts (s : State) : (drivePorts p s).pop = s.pop.map (Prod.map id (drivePorts p)) := by
  rw [State.pop, State.pop, apply_dite (Option.map (Prod.map id (drivePorts p)))]
  rfl

theorem storeBytes_drivePorts (op : Word) (a : Nat) {bs : List Byte} (hne : bs ≠ []) (s : State) :
    storeBytes op (drivePorts p s) a bs = drivePorts p (storeBytes op s a bs) := by
  rw [storeBytes_eq _ _ _ _ hne, storeBytes_eq _ _ _ _ hne, apply_ite (drivePorts p)]
  rfl

theorem loadRegs_drivePorts (op : Word) (a : Nat) (xs : List Reg) (s : State) :
    loadRegs op (drivePorts p s) a xs = drivePorts p (loadRegs op s a xs) := by
  induction xs generalizing s a with
  | nil => rfl
  | cons x xs ih =>
    have hread : (drivePorts p s).memRead a = s.memRead a := rfl
    simp only [loadRegs, hread]
    cases s.memRead a with
    | none => rfl
    | some b => exact ih (a + 1) (s.setV x b)

theorem drawRows_drivePorts (op : Word) (x0 k yy a : Nat) (hit : Bool) (s : State) :
    drawRows op x0 k yy a hit (drivePorts p s) = drivePorts p (drawRows op x0 k yy a hit s) := by
  rw [drawRows_eq, drawRows_eq, apply_ite (drivePorts p)]
  rfl

/-! ### The instructions under other levels -/

theorem execCallNnn_drivePorts {nnn : BitVec 12} (h : execCallNnn nnn s = .next t) :
    execCallNnn nnn (drivePorts p s) = .next (drivePorts p t) := by
  have hpush : (drivePorts p s).push (drivePorts p s).pc = (s.push s.pc).map (drivePorts p) :=
    State.push_drivePorts p s.pc s
  rw [execCallNnn] at h ⊢
  rw [hpush]
  cases hp : s.push s.pc with
  | none | some =>
    rw [hp] at h
    cases h
    rfl

theorem execRet_drivePorts (h : execRet s = .next t) : execRet (drivePorts p s) = .next (drivePorts p t) := by
  rw [execRet] at h ⊢
  rw [State.pop_drivePorts]
  cases hp : s.pop with
  | none | some =>
    rw [hp] at h
    cases h
    rfl

theorem execAddIVx_drivePorts {x : Reg} (h : execAddIVx x s = .next t) :
    execAddIVx x (drivePorts p s) = .next (drivePorts p t) := by
  rw [execAddIVx] at h
  split at h
  next hover =>
    cases h
    exact if_pos hover
  next hfit =>
    cases h
    exact if_neg hfit

/-- An instruction that reads no input does the same whatever levels the host presents, and passes them on. -/
theorem exec_drivePorts (hi : readsInput i = false) (h : exec i s = .next t) :
    exec i (drivePorts p s) = .next (drivePorts p t) := by
  cases i with
  | skpVx | sknpVx | ldVxK | rndVxNn => cases hi
  | cls | jpNnn | jpV0Nnn | ldVxNn | addVxNn | ldVxVy | orVxVy | andVxVy | xorVxVy | addVxVy | subVxVy | shrVx
  | subnVxVy | shlVx | ldINnn | ldVxDt | ldDtVx | ldStVx | ldFVx =>
    cases h
    rfl
  | seVxNn | sneVxNn | seVxVy | sneVxVy =>
    cases h
    exact congrArg _ (State.skipIf_drivePorts p _ s)
  | callNnn => exact execCallNnn_drivePorts p h
  | ret => exact execRet_drivePorts p h
  | addIVx => exact execAddIVx_drivePorts p h
  | drwVxVyN =>
    cases h
    exact congrArg _ (drawRows_drivePorts p _ _ _ _ _ _ s)
  | ldBVx =>
    cases h
    exact congrArg _ (storeBytes_drivePorts p _ _ (List.cons_ne_nil _ _) s)
  | ldMiVx x =>
    cases h
    exact congrArg _ (storeBytes_drivePorts p _ _ (s.bytesUpTo_ne_nil x) s)
  | ldVxMi =>
    cases h
    exact congrArg _ (loadRegs_drivePorts p _ _ _ s)

end Sys2Proof.Machine

namespace Sys2Proof.Proofs

open Sys2Proof.Machine

/-- Settles O55: presenting the levels `p` is `drivePorts p`, which such an instruction passes through. -/
theorem unreadInputsAreIgnored : Obligations.UnreadInputsAreIgnored :=
  fun _ _ _ p hi h => exec_drivePorts p hi h

/-- Settles O34: the fetch answers the word, and the step dispatches on what it decodes to. -/
theorem stepRunsDecodedInstruction : Obligations.StepRunsDecodedInstruction :=
  fun _ _ _ hf hd => (step_of_stepComesNext hf.stepNext).trans (engineStep_of_decode hf.running hf.fetch_eq hd)

/-- Settles O36: the fetch answers the first address out of bounds, and the step raises the fault there. -/
theorem fetchFaultTaken : Obligations.FetchFaultTaken :=
  fun _ hrun hstep hlsz =>
    (step_of_stepComesNext hstep).trans (engineStep_of_fetch_error hrun (State.fetch_of_invalid hlsz))

/-- Settles O37: once the event is used up, a faulted core's step and tick change nothing. -/
theorem faultedCoreIgnoresEvents : Obligations.FaultedCoreIgnoresEvents := by
  intro s hflt
  obtain ⟨f, hf⟩ := Option.ne_none_iff_exists'.1 hflt
  refine ⟨fun ha => ?_, fun rest ha => ?_, fun rest ha => ?_⟩
  · exact (step_of_agenda_nil ha).trans (engineStep_of_fault hf)
  · exact (step_of_agenda_cons ha).trans (engineStep_of_fault hf)
  · exact (step_of_agenda_cons ha).trans (congrArg Host.Outcome.next (timerTick_of_fault hf))

end Sys2Proof.Proofs
end

section
/-!
SUPPORT. Where `PC` stands after an instruction (41_control_flow.md R148, 10_state.md R23, R24): at the advanced value,
or at one of the few targets that the instructions that write `PC` have.
-/

namespace Sys2Proof.Machine

/-- The values that an instruction can write to `PC` after the advance: a skip (R144), the rewind of a key wait
(44_timer_key.md R204), the target of a jump or call (R140, R142), of an offset jump (R141), or a live return address
(R143). -/
inductive State.BranchTarget (s : State) : Word → Prop where
  | skip : s.BranchTarget (s.pc + 2)
  | rewind : s.BranchTarget (s.pc - 2)
  | jump (nnn : BitVec 12) : s.BranchTarget (zext16 nnn)
  | offsetJump (nnn : BitVec 12) : s.BranchTarget (s.offsetTarget nnn)
  | returnAddress (j : Fin 16) (hlive : j.val < s.top.val) : s.BranchTarget s.stk[j]

variable {s t : State} {i : Instr}

/-- The largest target is `0xFFF + 0xFF`, that of an offset jump. -/
theorem State.BranchTarget.toNat_le {w : Word} (hw : s.BranchTarget w) (hlo : 2 ≤ s.pc.toNat)
    (hhi : s.pc.toNat ≤ 0x1000) (hret : ∀ j : Fin 16, j.val < s.top.val → s.stk[j].toNat ≤ 0x1000) :
    w.toNat ≤ 0x10FE := by
  cases hw with
  | skip | rewind => bv_omega
  | jump nnn =>
    rw [zext16_toNat]
    omega
  | offsetJump nnn =>
    rw [State.offsetTarget_toNat]
    omega
  | returnAddress j hlive => exact (hret j hlive).trans (by decide)

theorem State.skipIf_pc_cases (s : State) (c : Bool) :
    (s.skipIf c).pc = s.pc ∨ s.BranchTarget (s.skipIf c).pc := by
  cases c with
  | false => exact .inl rfl
  | true => exact .inr .skip

/-- Everything an instruction can do to `PC`. -/
theorem exec_pc_cases (h : exec i s = .next t) :
    t.pc = s.pc ∨ (writesPc i = true ∧ s.BranchTarget t.pc) := by
  cases i with
  | cls | ldVxNn | addVxNn | ldVxVy | orVxVy | andVxVy | xorVxVy | addVxVy | subVxVy | shrVx | subnVxVy | shlVx
  | ldINnn | rndVxNn | ldVxDt | ldDtVx | ldStVx | ldFVx =>
    cases h
    exact .inl rfl
  | addIVx x =>
    obtain ⟨-, he⟩ | ⟨-, he⟩ := execAddIVx_cases x s <;> (cases he.symm.trans h; exact .inl rfl)
  | drwVxVyN =>
    cases h
    rw [drawRows_frame]
    exact .inl rfl
  | ldBVx | ldMiVx =>
    cases h
    rw [storeBytes_frame]
    exact .inl rfl
  | ldVxMi =>
    cases h
    rw [loadRegs_frame]
    exact .inl rfl
  | jpNnn nnn =>
    cases h
    exact .inr ⟨rfl, .jump nnn⟩
  | jpV0Nnn nnn =>
    cases h
    exact .inr ⟨rfl, .offsetJump nnn⟩
  | callNnn nnn =>
    obtain ⟨_, he⟩ | ⟨-, he⟩ := execCallNnn_cases nnn s <;> cases he.symm.trans h
    · exact .inr ⟨rfl, .jump nnn⟩
    · exact .inl rfl
  | ret =>
    obtain ⟨hlive, he⟩ | ⟨-, he⟩ := execRet_cases s <;> cases he.symm.trans h
    · exact .inr ⟨rfl, .returnAddress ⟨s.top.val - 1, by omega⟩ (by simp only; omega)⟩
    · exact .inl rfl
  | seVxNn | sneVxNn | seVxVy | sneVxVy =>
    cases h
    exact (s.skipIf_pc_cases _).imp_right (And.intro rfl)
  | skpVx x =>
    obtain ⟨_, he⟩ | ⟨-, he⟩ := execSkpVx_cases x s <;> cases he.symm.trans h
    · exact (s.skipIf_pc_cases _).imp_right (And.intro rfl)
    · exact .inl rfl
  | sknpVx x =>
    obtain ⟨_, he⟩ | ⟨-, he⟩ := execSknpVx_cases x s <;> cases he.symm.trans h
    · exact (s.skipIf_pc_cases _).imp_right (And.intro rfl)
    · exact .inl rfl
  | ldVxK x =>
    obtain ⟨-, -, he⟩ | ⟨k, -, -, he⟩ | ⟨k, -, -, he⟩ | ⟨k, c, -, -, he⟩ :=
      execLdVxK_cases x s <;> cases he.symm.trans h
    · exact .inr ⟨rfl, .rewind⟩
    · exact .inr ⟨rfl, .rewind⟩
    · exact .inr ⟨rfl, .rewind⟩
    · exact .inl rfl

end Sys2Proof.Machine

namespace Sys2Proof.Proofs

open Sys2Proof.Machine

/-- Settles O52: `PC` stands at the advanced value or, for the instructions that write it, at a branch target. -/
theorem programCounterFrame : Obligations.ProgramCounterFrame := by
  intro i s t h
  obtain hpc | ⟨hi, hpc⟩ := exec_pc_cases h
  · exact ⟨fun _ => hpc, fun _ hhi _ => by rw [hpc]; omega⟩
  · exact ⟨fun hno => absurd (hno.symm.trans hi) Bool.false_ne_true, hpc.toNat_le⟩

end Sys2Proof.Proofs
end

section
/-!
SUPPORT. The control-flow instructions one by one (41_control_flow.md R140 to R147): the words that decode to them,
where they leave `PC`, and the call stack.
-/

namespace Sys2Proof

/-! ### A word given as a number (30_encoding.md R91, R92) -/

/-- A number that is the value of an instruction's word decodes to the instruction. -/
theorem decode_ofNat_of_encode {i : Instr} {n : Nat} (h : (encode i).toNat = n) :
    decode (BitVec.ofNat 16 n) = .ok i := by
  rw [← h, BitVec.ofNat_toNat, BitVec.setWidth_eq, decode_encode]

theorem ofNat_eq_encodeXyn (c : BitVec 4) (x y : Reg) {n : Nat} (hn : n < 16) :
    BitVec.ofNat 16 (4096 * c.toNat + 256 * x.val + 16 * y.val + n) = encodeXyn c x y (BitVec.ofNat 4 n) := by
  have hdigit : (BitVec.ofNat 4 n).toNat = n := Nat.mod_eq_of_lt hn
  refine BitVec.eq_of_toNat_eq ?_
  rw [encodeXyn_toNat, hdigit, BitVec.toNat_ofNat]
  omega

/-- In the classes 5 and 9 a last digit other than 0 is malformed (R100, decision D28). -/
theorem decode_ofNat_malformed {c : BitVec 4} (hc : c = 0x5 ∨ c = 0x9) (x y : Reg) {n : Nat} (hpos : 0 < n)
    (hn : n < 16) :
    decode (BitVec.ofNat 16 (4096 * c.toNat + 256 * x.val + 16 * y.val + n)) = .error .malformedOpcode := by
  have hdigit : BitVec.ofNat 4 n ≠ 0 := by bv_omega
  rw [ofNat_eq_encodeXyn c x y hn, decode_eq_error_iff]
  exact ⟨by simpa using hc, by simpa using hdigit⟩

end Sys2Proof

namespace Sys2Proof.Machine

variable {s : State}

/-- A fetch from a `PC` at or above `LSZ` fails at `PC` (40_engine_step.md R121, decision D34). -/
theorem State.fetch_of_pc_invalid (h : s.lsz.val ≤ s.pc.toNat) : s.fetch = .error s.pc.toNat := by
  rw [State.fetch_of_invalid (by omega), if_pos h]

/-! ### Skips (41_control_flow.md R144 to R147) -/

/-- What a skip answers, with `p` for its condition and `q` for the opposite. -/
theorem State.skipIf_answers (s : State) {p q : Prop} {c : Bool} (hp : p → c = true) (hq : q → c = false) :
    ∃ t, (.next (s.skipIf c) : Host.Outcome State Fault Refusal) = .next t ∧ t = { s with pc := t.pc } ∧
      (p → s.pc.toNat ≤ 0x1000 → t.pc.toNat = s.pc.toNat + 2) ∧ (q → t.pc = s.pc) := by
  refine ⟨_, rfl, by rw [s.skipIf_eq c], fun h hpc => ?_, fun h => ?_⟩
  · rw [hp h]
    show (s.pc + 2).toNat = s.pc.toNat + 2
    bv_omega
  · rw [hq h]
    rfl

end Sys2Proof.Machine

namespace Sys2Proof.Proofs

open Sys2Proof.Machine

/-- Settles O1: the jump sets `PC`, and a fetch from there fails at its first byte. -/
theorem jumpGoesToTarget : Obligations.JumpGoesToTarget := by
  intro nnn s
  have htarget := zext16_toNat nnn
  refine ⟨decode_ofNat_of_encode (encodeNnn_toNat 0x1 nnn), _, rfl, rfl, htarget, fun hlsz => ?_⟩
  rw [← htarget] at hlsz ⊢
  exact State.fetch_of_pc_invalid hlsz

/-- Settles O2: the sum fits in 16 bits, and `LSZ` is never above `0x1000`. -/
theorem offsetJumpIsNotMasked : Obligations.OffsetJumpIsNotMasked := by
  intro nnn s
  have htarget := s.offsetTarget_toNat nnn
  refine ⟨decode_ofNat_of_encode (encodeNnn_toNat 0xB nnn), _, rfl, rfl, htarget, fun hsum => ?_⟩
  rw [← htarget] at hsum ⊢
  exact State.fetch_of_pc_invalid ((Nat.le_of_lt_succ s.lsz.isLt).trans hsum)

/-- Settles O3: the two answers of a call, with the fault record's word and value as numbers. -/
theorem callPushesReturnAddress : Obligations.CallPushesReturnAddress := by
  intro nnn s
  obtain ⟨hroom, he⟩ | ⟨hfull, he⟩ := execCallNnn_cases nnn s
  · refine ⟨fun _ => ⟨_, he, rfl, Vector.getElem_set_self _, fun j hj => ?_, rfl, rfl, zext16_toNat nnn⟩,
      fun hfull => by omega⟩
    exact Vector.getElem_set_ne hroom _ hj.symm
  · have hword : encode (.callNnn nnn) = BitVec.ofNat 16 (0x2000 + nnn.toNat) :=
      encode_of_decode (decode_ofNat_of_encode (encodeNnn_toNat 0x2 nnn))
    refine ⟨fun hroom => by omega, fun _ => ?_⟩
    rw [exec, he, State.raise, hword, BitVec.ofNat_toNat]

/-- Settles O4: the two answers of a return. -/
theorem returnPopsIntoPc : Obligations.ReturnPopsIntoPc := by
  intro s
  obtain ⟨hlive, he⟩ | ⟨hempty, he⟩ := execRet_cases s
  · exact ⟨fun _ => ⟨_, he, rfl, rfl, Nat.sub_add_cancel hlive, rfl⟩, fun hempty => by omega⟩
  · exact ⟨fun hlive => by omega, fun _ => he⟩

/-- Settles O6: the words by the value of their format, and each skip by its condition. -/
theorem immediateSkips : Obligations.ImmediateSkips := by
  intro x nn s
  refine ⟨⟨decode_ofNat_of_encode ?_, ?_⟩, decode_ofNat_of_encode ?_, ?_⟩
  · rw [encode, encodeXnn_toNat, Nat.mul_comm x.val]
    rfl
  · exact s.skipIf_answers beq_iff_eq.2 beq_eq_false_iff_ne.2
  · rw [encode, encodeXnn_toNat, Nat.mul_comm x.val]
    rfl
  · exact s.skipIf_answers bne_iff_ne.2 bne_eq_false_iff_eq.2

/-- Settles O7: each skip by its condition, and the malformed words by their class and last digit. -/
theorem registerSkips : Obligations.RegisterSkips := by
  refine ⟨fun x y s => ⟨?_, ?_⟩, fun x y n hpos hn => ⟨?_, ?_⟩⟩
  · exact s.skipIf_answers beq_iff_eq.2 beq_eq_false_iff_ne.2
  · exact s.skipIf_answers bne_iff_ne.2 bne_eq_false_iff_eq.2
  · exact decode_ofNat_malformed (c := 0x5) (.inl rfl) x y hpos hn
  · exact decode_ofNat_malformed (c := 0x9) (.inr rfl) x y hpos hn

end Sys2Proof.Proofs
end

section
/-!
SUPPORT. The register and ALU instructions one by one (42_alu.md R160 to R172): the words that decode to them, the
flags as numbers, and what is left in each register.
-/

namespace Sys2Proof

/-! ### The value of a word, its digits in the order of its fields (30_encoding.md R91) -/

theorem encodeXnn_toNat_digits (c : BitVec 4) (x : Reg) (nn : Byte) :
    (encodeXnn c x nn).toNat = 4096 * c.toNat + 256 * x.val + nn.toNat := by
  rw [encodeXnn_toNat, Nat.mul_comm c.toNat, Nat.mul_comm x.val]

theorem encodeXyn_zero_toNat_digits (c : BitVec 4) (x y : Reg) :
    (encodeXyn c x y 0x0).toNat = 4096 * c.toNat + 256 * x.val + 16 * y.val := by
  rw [encodeXyn_toNat, Nat.mul_comm c.toNat, Nat.mul_comm x.val, Nat.mul_comm y.val]
  rfl

end Sys2Proof

namespace Sys2Proof.Machine

/-! ### The flags as numbers (42_alu.md R166 to R172) -/

theorem flagByte_toNat (c : Bool) : (flagByte c).toNat = c.toNat := by
  cases c <;> rfl

theorem flagByte_decide_toNat (p : Prop) [Decidable p] : (flagByte (decide p)).toNat = if p then 1 else 0 :=
  (flagByte_toNat _).trans (Bool.cond_decide p 1 0)

theorem carryOut_toNat (a b : Byte) : (carryOut a b).toNat = if 255 < a.toNat + b.toNat then 1 else 0 :=
  flagByte_decide_toNat _

theorem strictlyGreater_toNat (a b : Byte) : (strictlyGreater a b).toNat = if b.toNat < a.toNat then 1 else 0 :=
  flagByte_decide_toNat _

theorem shiftedOutRight_toNat (a : Byte) : (shiftedOutRight a).toNat = a.toNat % 2 := by
  rw [shiftedOutRight, flagByte_toNat, BitVec.getLsbD, Nat.toNat_testBit, pow_zero, Nat.div_one]

/-- Bit 7 is all that a byte has above its low seven bits. -/
theorem shiftedOutLeft_toNat (a : Byte) : (shiftedOutLeft a).toNat = a.toNat / 128 := by
  rw [shiftedOutLeft, flagByte_toNat, BitVec.getLsbD, Nat.toNat_testBit]
  omega

/-! ### The results as numbers -/

theorem byte_sub_toNat (a b : Byte) : (a - b).toNat = (a.toNat + 256 - b.toNat) % 256 := by
  bv_omega

/-! ### What an instruction that writes a result answers -/

variable {x : Reg}

/-- What an instruction that only writes `b` to `Vx` answers, with `Q` for what is said of the result. -/
theorem State.setV_answers (s : State) {b : Byte} {Q : State → Prop} (hQ : ∀ t : State, t.getV x = b → Q t) :
    ∃ t, (.next (s.setV x b) : Host.Outcome State Fault Refusal) = .next t ∧ t = { s with v := t.v } ∧
      Q t ∧ ∀ r, r ≠ x → t.getV r = s.getV r :=
  ⟨_, rfl, rfl, hQ _ (s.setV_getV_self x b), fun _ hr => s.setV_getV_ne hr b⟩

/-- What an instruction that writes a result to `Vx` and then a flag to `VF` answers, with the values `m` and `n`
(R171, decision D15). -/
theorem State.setResultAndFlag_answers (s : State) {res flag : Byte} {m n : Nat} (hres : res.toNat = m)
    (hflag : flag.toNat = n) :
    ∃ t, (.next (s.setResultAndFlag x res flag) : Host.Outcome State Fault Refusal) = .next t ∧
      t = { s with v := t.v } ∧ (x ≠ regF → (t.getV x).toNat = m) ∧ (t.getV regF).toNat = n ∧
      ∀ r, r ≠ x → r ≠ regF → t.getV r = s.getV r := by
  refine ⟨_, rfl, rfl, fun hx => ?_, ?_, fun r hrx hrf => s.setResultAndFlag_getV_ne hrx hrf res flag⟩
  · rw [State.setResultAndFlag_getV, if_neg hx, if_pos rfl, hres]
  · rw [State.setResultAndFlag_getV_regF, hflag]

end Sys2Proof.Machine

namespace Sys2Proof.Proofs

open Sys2Proof.Machine

/-- Settles O8: the words by the digits of their format, and each instruction as one register write. -/
theorem plainRegisterWrites : Obligations.PlainRegisterWrites := by
  intro x y nn s
  refine ⟨⟨?_, ?_⟩, ⟨?_, ?_⟩, ?_, ?_⟩
  · exact decode_ofNat_of_encode (encodeXnn_toNat_digits 0x6 x nn)
  · exact s.setV_answers fun _ => id
  · exact decode_ofNat_of_encode (encodeXnn_toNat_digits 0x7 x nn)
  · exact s.setV_answers fun t ht => by rw [ht, BitVec.toNat_add]
  · exact decode_ofNat_of_encode (encodeXyn_zero_toNat_digits 0x8 x y)
  · exact s.setV_answers fun _ => id

/-- Settles O9: each instruction is one register write, and each bit of the result comes from the two bits. -/
theorem logicLeavesFlag : Obligations.LogicLeavesFlag := by
  intro x y s
  refine ⟨?_, ?_, ?_⟩
  · exact s.setV_answers fun t ht k => by rw [ht, BitVec.getLsbD_or]
  · exact s.setV_answers fun t ht k => by rw [ht, BitVec.getLsbD_and]
  · exact s.setV_answers fun t ht k => by rw [ht, BitVec.getLsbD_xor]

/-- Settles O10: the sum wraps at 256, and the carry says that it did. -/
theorem addWithCarry : Obligations.AddWithCarry :=
  fun _ _ s => s.setResultAndFlag_answers (BitVec.toNat_add _ _) (carryOut_toNat _ _)

/-- Settles O11: one subtraction and one strict comparison, with the operands in either order. -/
theorem subtractWithStrictFlag : Obligations.SubtractWithStrictFlag :=
  fun _ _ s =>
    ⟨s.setResultAndFlag_answers (byte_sub_toNat _ _) (strictlyGreater_toNat _ _),
      s.setResultAndFlag_answers (byte_sub_toNat _ _) (strictlyGreater_toNat _ _)⟩

/-- Settles O12: a shift by one halves or doubles, and the bit shifted out is the lowest or the highest one. -/
theorem shiftsByOne : Obligations.ShiftsByOne := by
  intro x y s
  refine ⟨s.setResultAndFlag_answers ?_ (shiftedOutRight_toNat _),
    s.setResultAndFlag_answers ?_ (shiftedOutLeft_toNat _)⟩
  · rw [BitVec.toNat_ushiftRight, Nat.shiftRight_one]
  · rw [BitVec.toNat_shiftLeft, Nat.shiftLeft_eq, pow_one]

end Sys2Proof.Proofs
end

section
/-!
SUPPORT. The memory and address-register instructions one by one (43_memory_address.md R180 to R187): the words of
class `F` as numbers, what a block transfer leaves in each byte and each register, in bounds and out of bounds, and the
fault it records.
-/

namespace Sys2Proof

/-- A word of class `F` as a number, in the order in which the fault records are stated (R91). -/
theorem encodeXnn_classF_toNat (x : Reg) (nn : Byte) :
    (encodeXnn 0xF x nn).toNat = 0xF000 + nn.toNat + 256 * x.val :=
  (encodeXnn_toNat_digits 0xF x nn).trans (Nat.add_right_comm _ _ _)

theorem encodeXnn_classF_eq_ofNat (x : Reg) (nn : Byte) :
    encodeXnn 0xF x nn = BitVec.ofNat 16 (0xF000 + nn.toNat + 256 * x.val) := by
  rw [← encodeXnn_classF_toNat, BitVec.ofNat_toNat, BitVec.setWidth_eq]

end Sys2Proof

namespace Sys2Proof.Machine

theorem glyphAddress_toNat (b : Byte) : (glyphAddress b).toNat = b.toNat * 5 + 0x50 :=
  Nat.mod_eq_of_lt (by omega)

variable {s : State} {op : Word} {a : Nat}

/-! ### What a store leaves in memory (R183, R184, R187) -/

section Store

variable {bs : List Byte}

/-- Each byte whose address is valid is stored, whether or not a later address faults. -/
theorem storeBytes_read_of_getElem? {j : Nat} {b : Byte} (hb : bs[j]? = some b) (hv : a + j < s.lsz.val) :
    (storeBytes op s a bs).mem.read (a + j) = b := by
  obtain ⟨hj, hbs⟩ := List.getElem?_eq_some_iff.1 hb
  rw [storeBytes_eq _ _ _ _ (List.ne_nil_of_length_pos (Nat.zero_lt_of_lt hj))]
  split
  · exact (Memory.read_writeBytes_getElem _ _ _ hj).trans hbs
  · have hstored : j < (bs.take (s.lsz.val - a)).length := by rw [List.length_take]; omega
    exact (Memory.read_writeBytes_getElem _ _ _ hstored).trans (List.getElem_take.trans hbs)

theorem storeBytes_read_outside (hne : bs ≠ []) {a' : Nat}
    (h : a' < a ∨ s.lsz.val ≤ a' ∨ a + bs.length ≤ a') :
    (storeBytes op s a bs).mem.read a' = s.mem.read a' := by
  rw [storeBytes_eq _ _ _ _ hne]
  split
  · exact Memory.read_writeBytes_outside _ (by omega)
  · exact Memory.read_writeBytes_outside _ (by rw [List.length_take]; omega)

/-- With all addresses valid a store records no fault: it writes memory and nothing else. -/
theorem storeBytes_frame_of_valid (hne : bs ≠ []) (h : a + bs.length ≤ s.lsz.val) :
    storeBytes op s a bs = { s with mem := (storeBytes op s a bs).mem } := by
  rw [storeBytes_eq _ _ _ _ hne, if_pos h]
  rfl

/-- The first address that is not valid is the start of the block or `LSZ`, whichever is higher (R187). -/
theorem storeBytes_flt_of_invalid {w : Word} (hop : op = w) (hne : bs ≠ []) (h : s.lsz.val < a + bs.length) :
    (storeBytes op s a bs).flt =
      some { cause := .memoryBoundsError .write, opcode := w, addr := BitVec.ofNat 17 (max a s.lsz.val)
             pc := s.pc } := by
  rw [storeBytes_eq _ _ _ _ hne, if_neg (Nat.not_le_of_lt h), hop]
  rfl

end Store

theorem State.bytesUpTo_getElem? (s : State) {x j : Reg} (hj : j.val ≤ x.val) :
    (s.bytesUpTo x)[j.val]? = some (s.getV j) := by
  have hlen : j.val < (s.bytesUpTo x).length := by rw [State.bytesUpTo_length]; omega
  rw [List.getElem?_eq_getElem hlen, State.bytesUpTo_getElem]

theorem bcdDigits_ne_nil (b : Byte) : bcdDigits b ≠ [] := List.cons_ne_nil _ _

/-- The three digits in memory, each where its own address is valid (R183). -/
theorem storeBytes_bcdDigits_read (b : Byte) :
    (a < s.lsz.val → ((storeBytes op s a (bcdDigits b)).mem.read a).toNat = b.toNat / 100) ∧
    (a + 1 < s.lsz.val → ((storeBytes op s a (bcdDigits b)).mem.read (a + 1)).toNat = b.toNat / 10 % 10) ∧
    (a + 2 < s.lsz.val → ((storeBytes op s a (bcdDigits b)).mem.read (a + 2)).toNat = b.toNat % 10) := by
  have digit {j n : Nat} (hn : n < 256) (hb : (bcdDigits b)[j]? = some (BitVec.ofNat 8 n))
      (hv : a + j < s.lsz.val) : ((storeBytes op s a (bcdDigits b)).mem.read (a + j)).toNat = n := by
    rw [storeBytes_read_of_getElem? hb hv, BitVec.toNat_ofNat, Nat.mod_eq_of_lt hn]
  exact ⟨digit (j := 0) (by omega) rfl, digit (by omega) rfl, digit (by omega) rfl⟩

/-! ### What a load leaves in the registers (R185, R187) -/

section Load

variable {x : Reg}

/-- Each register of the block whose address is valid is loaded, whether or not a later address faults. -/
theorem loadRegs_regsUpTo_getV (r : Reg) :
    (loadRegs op s a (regsUpTo x)).getV r =
      if r.val ≤ x.val ∧ a + r.val < s.lsz.val then s.mem.read (a + r.val) else s.getV r := by
  rw [loadRegs_eq _ _ _ _ (regsUpTo_ne_nil x), regsUpTo_length]
  split
  · rw [regsUpTo, setRegs_take_finRange]
    exact if_congr (by omega) rfl rfl
  · rw [State.raise_getV, regsUpTo, List.take_take, setRegs_take_finRange]
    exact if_congr (by omega) rfl rfl

/-- With all addresses valid a load records no fault: it writes registers and nothing else. -/
theorem loadRegs_regsUpTo_frame_of_valid (h : a + x.val < s.lsz.val) :
    loadRegs op s a (regsUpTo x) = { s with v := (loadRegs op s a (regsUpTo x)).v } := by
  have hfit : a + (regsUpTo x).length ≤ s.lsz.val := by rw [regsUpTo_length]; exact h
  rw [loadRegs_eq _ _ _ _ (regsUpTo_ne_nil x), if_pos hfit]
  exact setRegs_frame _ _ _

/-- The first address that is not valid is the start of the block or `LSZ`, whichever is higher (R187). -/
theorem loadRegs_regsUpTo_flt_of_invalid {w : Word} (hop : op = w) (h : s.lsz.val ≤ a + x.val) :
    (loadRegs op s a (regsUpTo x)).flt =
      some { cause := .memoryBoundsError .read, opcode := w, addr := BitVec.ofNat 17 (max a s.lsz.val)
             pc := s.pc } := by
  have hout : ¬a + (regsUpTo x).length ≤ s.lsz.val := by rw [regsUpTo_length]; omega
  rw [loadRegs_eq _ _ _ _ (regsUpTo_ne_nil x), if_neg hout, State.raise_flt, setRegs_frame, hop]

end Load

end Sys2Proof.Machine

namespace Sys2Proof.Proofs

open Sys2Proof.Machine

/-- Settles O16: three bytes fit, so no address of the store faults. -/
theorem decimalDigitsStored : Obligations.DecimalDigitsStored := by
  intro x s hvalid
  obtain ⟨hundreds, tens, units⟩ :=
    storeBytes_bcdDigits_read (op := encode (.ldBVx x)) (a := s.i.toNat) (s.getV x)
  have hne := bcdDigits_ne_nil (s.getV x)
  exact ⟨_, rfl, storeBytes_frame_of_valid hne hvalid, hundreds (by omega), tens (by omega), units hvalid,
    fun a hout => storeBytes_read_outside hne (hout.imp_right .inr)⟩

/-- Settles O17: the store is the whole block. -/
theorem registersStored : Obligations.RegistersStored := by
  intro x s hvalid
  refine ⟨_, execLdMiVx_of_valid hvalid, rfl, fun j hj => ?_, fun a hout => ?_⟩
  · exact s.mem.read_writeBytes_bytesUpTo _ s hj
  · exact s.mem.read_writeBytes_outside (by rw [State.bytesUpTo_length]; omega)

/-- Settles O18: the load is the whole block, so no register above `Vx` is in it. -/
theorem registersLoaded : Obligations.RegistersLoaded := by
  intro x s hvalid
  refine ⟨_, rfl, loadRegs_regsUpTo_frame_of_valid hvalid, fun j hj => ?_, fun r hr => ?_⟩
  · exact (loadRegs_regsUpTo_getV j).trans (if_pos ⟨hj, by rw [State.dataAddress]; omega⟩)
  · exact (loadRegs_regsUpTo_getV r).trans (if_neg (by omega))

/-- Settles O19: both instructions store through one operation, which stops at the first address not below `LSZ`. -/
theorem storeFaultKeepsEarlierBytes : Obligations.StoreFaultKeepsEarlierBytes := by
  intro x s
  refine ⟨fun hout => ?_, fun hout => ?_⟩
  · have hne := s.bytesUpTo_ne_nil x
    have hbad : s.lsz.val < s.i.toNat + (s.bytesUpTo x).length := by rw [State.bytesUpTo_length]; omega
    refine ⟨_, rfl, storeBytes_frame _ _ _ _,
      storeBytes_flt_of_invalid (encodeXnn_classF_eq_ofNat x 0x55) hne hbad, fun j hj => ?_, fun a ha => ?_⟩
    · exact storeBytes_read_of_getElem? (s.bytesUpTo_getElem? (by omega)) hj
    · exact storeBytes_read_outside hne (ha.imp_right .inl)
  · have hne := bcdDigits_ne_nil (s.getV x)
    have hbad : s.lsz.val < s.i.toNat + (bcdDigits (s.getV x)).length := Nat.lt_succ_of_le hout
    obtain ⟨hundreds, tens, -⟩ := storeBytes_bcdDigits_read (op := encode (.ldBVx x)) (s.getV x)
    exact ⟨_, rfl, storeBytes_frame _ _ _ _,
      storeBytes_flt_of_invalid (encodeXnn_classF_eq_ofNat x 0x33) hne hbad, hundreds, tens,
      fun a ha => storeBytes_read_outside hne (ha.imp_right .inl)⟩

/-- Settles O20: the load stops at the first address not below `LSZ`, which is one of its own. -/
theorem loadFaultKeepsEarlierRegisters : Obligations.LoadFaultKeepsEarlierRegisters := by
  intro x s hout
  refine ⟨_, rfl, loadRegs_frame _ _ _ _,
    loadRegs_regsUpTo_flt_of_invalid (encodeXnn_classF_eq_ofNat x 0x65) hout, fun j => ?_⟩
  exact (loadRegs_regsUpTo_getV j).trans (if_congr (by rw [State.dataAddress]; omega) rfl rfl)

/-- Settles O21: the load reads, register by register, the block that the store left in memory. -/
theorem storeThenLoadRestoresRegisters : Obligations.StoreThenLoadRestoresRegisters := by
  intro x s t u hvalid h hmem hi hlsz
  cases (execLdMiVx_of_valid hvalid).symm.trans h
  refine ⟨_, rfl, fun j => (loadRegs_regsUpTo_getV j).trans ?_⟩
  rw [State.dataAddress, hmem, hi, hlsz, State.setMem_mem, State.setMem_i, State.setMem_lsz]
  split_ifs with hload hj hj
  · exact s.mem.read_writeBytes_bytesUpTo _ s hj
  · exact absurd hload.1 hj
  · exact absurd ⟨hj, by omega⟩ hload
  · rfl

/-- Settles O13: the word by the value of its format, and `I` as the zero-extended immediate. -/
theorem loadAddressRegister : Obligations.LoadAddressRegister :=
  fun nnn _ => ⟨decode_ofNat_of_encode (encodeNnn_toNat 0xA nnn), _, rfl, rfl, zext16_toNat nnn⟩

/-- Settles O14: a sum that fits in 16 bits is not cut, and one that does not fits in the record's 17 bits. -/
theorem addToAddressRegister : Obligations.AddToAddressRegister := by
  intro x s
  obtain ⟨hfit, he⟩ | ⟨hover, he⟩ := execAddIVx_cases x s
  · exact ⟨fun _ => ⟨_, he, rfl, Nat.mod_eq_of_lt (Nat.lt_succ_of_le hfit)⟩, fun hover => by omega⟩
  · refine ⟨fun hfit => by omega, fun _ => ⟨_, he, rfl, encodeXnn_classF_toNat x 0x1E, ?_, rfl⟩⟩
    exact Nat.mod_eq_of_lt (by omega)

/-- Settles O15: `255 * 5 + 0x50` fits in 16 bits. -/
theorem glyphAddressUsesWholeRegister : Obligations.GlyphAddressUsesWholeRegister :=
  fun x s => ⟨_, rfl, rfl, glyphAddress_toNat (s.getV x)⟩

end Sys2Proof.Proofs
end

section
/-!
SUPPORT. The timer and key instructions one by one (44_timer_key.md R200 to R210): the key that a release commits, one
poll of `Fx0A` by the rows of its two phases, the step of the machine that makes such a poll, and the fault of a key
number above 15.
-/

namespace Sys2Proof

/-- A word of format `XSS` by its class and selector digits, its register digit last (R92). -/
theorem encodeXnn_eq_ofNat_selector (c : BitVec 4) (x : Reg) (nn : Byte) :
    encodeXnn c x nn = BitVec.ofNat 16 (4096 * c.toNat + nn.toNat + 256 * x.val) := by
  rw [Nat.add_right_comm, ← encodeXnn_toNat_digits, BitVec.ofNat_toNat, BitVec.setWidth_eq]

end Sys2Proof

namespace Sys2Proof.Machine

variable {s : State} {x : Reg} {k j : Key} {policy : ReleaseMatch}

/-! ### The key that a release commits (R204, R210, decision D21) -/

theorem keyByte_toNat (k : Key) : (keyByte k).toNat = k.val :=
  Nat.mod_eq_of_lt (by omega)

/-- Under `same_key` the release of another key than the latched one does not end the wait. -/
theorem committedKey_sameKey_of_ne (h : j ≠ k) : committedKey .sameKey k (some j) = none :=
  if_neg h

/-- A release of the latched key, or of any key under the two other policies, ends the wait; the released key is
committed only where the policy says so. -/
theorem committedKey_of_release (h : j = k ∨ policy ≠ .sameKey) :
    committedKey policy k (some j) = some (if policy = .anyKeyCommitReleased then j else k) := by
  cases policy with
  | sameKey => exact if_pos (h.resolve_right fun hp => hp rfl)
  | anyKeyCommitReleased | anyKeyCommitLatched => rfl

/-- The release of the latched key commits it under every policy. -/
theorem committedKey_self (policy : ReleaseMatch) (k : Key) : committedKey policy k (some k) = some k := by
  rw [committedKey_of_release (.inl rfl), ite_self]

/-! ### One poll of `Fx0A` (R204, R205) -/

theorem exec_ldVxK_of_idle (hkw : s.kw = .idle) (hdown : s.ports.keyDown = none) :
    exec (.ldVxK x) s = .next s.rewind := by
  simp only [exec, execLdVxK, hkw, hdown]

theorem exec_ldVxK_of_keyDown (hkw : s.kw = .idle) (hdown : s.ports.keyDown = some k) :
    exec (.ldVxK x) s = .next (s.setKw (.keyLatched k)).rewind := by
  simp only [exec, execLdVxK, hkw, hdown]

theorem exec_ldVxK_of_not_committed (hkw : s.kw = .keyLatched k)
    (hup : committedKey s.releaseMatch k s.ports.keyUp = none) : exec (.ldVxK x) s = .next s.rewind := by
  simp only [exec, execLdVxK, hkw, hup]

theorem exec_ldVxK_of_committed (hkw : s.kw = .keyLatched k)
    (hup : committedKey s.releaseMatch k s.ports.keyUp = some j) :
    exec (.ldVxK x) s = .next ((s.setV x (keyByte j)).setKw .idle) := by
  simp only [exec, execLdVxK, hkw, hup]

/-! ### A step that polls `Fx0A` (40_engine_step.md R120 to R125) -/

/-- The rewind undoes the advance: the next step fetches the same instruction (R125). -/
theorem State.rewind_advance (s : State) : s.advance.rewind = s := by
  rw [State.rewind, State.advance_pc, BitVec.add_sub_cancel]
  rfl

/-- A step that fetches `Fx0A` is one poll, from the advanced state with the event used up. -/
theorem step_of_fetches_ldVxK (hf : s.Fetches (BitVec.ofNat 16 (0xF00A + 256 * x.val))) :
    step s = exec (.ldVxK x) { s with agenda := s.agenda.tail }.advance :=
  Proofs.stepRunsDecodedInstruction s _ _ hf (decode_ofNat_of_encode (encodeXnn_classF_toNat x 0x0A))

/-- A poll that latches a key leaves `PC` where it was. -/
theorem step_ldVxK_of_keyDown (hf : s.Fetches (BitVec.ofNat 16 (0xF00A + 256 * x.val))) (hkw : s.kw = .idle)
    (hdown : s.ports.keyDown = some k) :
    step s = .next { s with kw := .keyLatched k, agenda := s.agenda.tail } := by
  have hpoll := (step_of_fetches_ldVxK hf).trans (exec_ldVxK_of_keyDown hkw hdown)
  exact hpoll.trans (congrArg _ (State.rewind_advance { s with kw := .keyLatched k, agenda := s.agenda.tail }))

/-- A poll that waits on uses up the event and changes nothing else. -/
theorem step_ldVxK_of_not_committed (hf : s.Fetches (BitVec.ofNat 16 (0xF00A + 256 * x.val)))
    (hkw : s.kw = .keyLatched k) (hup : committedKey s.releaseMatch k s.ports.keyUp = none) :
    step s = .next { s with agenda := s.agenda.tail } := by
  have hpoll := (step_of_fetches_ldVxK hf).trans (exec_ldVxK_of_not_committed hkw hup)
  exact hpoll.trans (congrArg _ (State.rewind_advance _))

/-! ### A key number above 15 (R206, R207, 60_exceptions.md R250) -/

/-- The record of `KeyIndexRange`: its address field is the register that holds the key number (decision D22). -/
theorem State.raise_keyIndexRange (s : State) {op w : Word} (hop : op = w) (b : Byte) :
    s.raise .keyIndexRange op b.toNat =
      { s with flt := some { cause := .keyIndexRange, opcode := w, addr := b.setWidth 17, pc := s.pc } } := by
  rw [State.raise, hop, BitVec.ofNat_toNat]

end Sys2Proof.Machine

namespace Sys2Proof.Proofs

open Sys2Proof.Machine

/-- Settles O26: one poll latches the key and rewinds, so that every later poll starts from the same `PC`; it waits on
or commits by what the key-up cell holds. -/
theorem keyWaitLatchesThenCommits : Obligations.KeyWaitLatchesThenCommits := by
  intro x k s hf hidle hdown
  refine ⟨_, step_ldVxK_of_keyDown hf hidle hdown, rfl, fun p a ha => ?_⟩
  have hagain : State.Fetches { s with kw := .keyLatched k, ports := p, agenda := a }
      (BitVec.ofNat 16 (0xF00A + 256 * x.val)) := ⟨hf.running, ha, hf.inBounds, hf.high, hf.low⟩
  refine ⟨fun hup => ?_, fun hup => ?_⟩
  · exact step_ldVxK_of_not_committed hagain rfl (congrArg _ hup)
  · have hcommit : committedKey s.releaseMatch k p.keyUp = some k := by rw [hup, committedKey_self]
    refine ⟨_, (step_of_fetches_ldVxK hagain).trans (exec_ldVxK_of_committed rfl hcommit), ?_,
      State.advance_pc_toNat hf.inBounds, ?_, fun r hr => ?_⟩
    · rw [← hidle]
      rfl
    · rw [State.setKw_getV, State.setV_getV_self, keyByte_toNat]
    · rw [State.setKw_getV, State.setV_getV_ne _ hr]
      rfl

/-- Settles O23: the words by the value of their format, and each move as one write. -/
theorem timerRegisterMoves : Obligations.TimerRegisterMoves := by
  intro x s
  refine ⟨⟨decode_ofNat_of_encode ?_, ?_⟩, ⟨decode_ofNat_of_encode ?_, rfl⟩, decode_ofNat_of_encode ?_, rfl⟩
  · exact encodeXnn_classF_toNat x 0x07
  · exact s.setV_answers fun _ => id
  · exact encodeXnn_classF_toNat x 0x15
  · exact encodeXnn_classF_toNat x 0x18

/-- Settles O24: on a running core each timer takes one off by itself, and on a faulted one the tick does nothing. -/
theorem timerTickCountsDown : Obligations.TimerTickCountsDown := by
  intro s rest ha
  by_cases hflt : s.flt = none
  · refine ⟨_, (step_of_agenda_cons ha).trans (congrArg Host.Outcome.next (timerTick_of_running hflt)), rfl,
      fun _ => ⟨?_, ?_⟩, fun hfault => absurd hflt hfault⟩
    · exact tickDown_toNat s.dt
    · exact tickDown_toNat s.st
  · obtain ⟨f, hf⟩ := Option.ne_none_iff_exists'.1 hflt
    exact ⟨_, (step_of_agenda_cons ha).trans (congrArg Host.Outcome.next (timerTick_of_fault hf)), rfl,
      fun hrun => absurd hrun hflt, fun _ => ⟨rfl, rfl⟩⟩

/-- Settles O25: the rows of one poll, the last two told apart by whether the release commits a key. -/
theorem keyWaitPoll : Obligations.KeyWaitPoll := by
  intro x s
  refine ⟨fun hkw hdown => exec_ldVxK_of_idle hkw hdown, fun k hkw hdown => exec_ldVxK_of_keyDown hkw hdown,
    fun k hkw hup => ?_, fun k j hkw hup hjk hpolicy => ?_, fun k j hkw hup hends => ?_⟩
  · exact exec_ldVxK_of_not_committed hkw (congrArg _ hup)
  · exact exec_ldVxK_of_not_committed hkw (by rw [hup, hpolicy, committedKey_sameKey_of_ne hjk])
  · refine ⟨_, exec_ldVxK_of_committed hkw (by rw [hup, committedKey_of_release hends]), rfl, ?_, fun r hr => ?_⟩
    · rw [State.setKw_getV, State.setV_getV_self, keyByte_toNat, apply_ite Fin.val]
    · rw [State.setKw_getV, State.setV_getV_ne _ hr]

/-- Settles O27: below 16 the two skips read the same key of the vector, and from 16 on both raise the same fault, each
with its own word. -/
theorem keySkips : Obligations.KeySkips := by
  intro x s
  refine ⟨fun hkey => ?_, fun hbad => ?_⟩
  · obtain ⟨_, hskp⟩ := (execSkpVx_cases x s).resolve_right fun hbad => by omega
    obtain ⟨_, hsknp⟩ := (execSknpVx_cases x s).resolve_right fun hbad => by omega
    rw [exec, exec, hskp, hsknp]
    exact ⟨s.skipIf_answers id id, s.skipIf_answers (Bool.not_eq_true' _).mpr (Bool.not_eq_false' _).mpr⟩
  · obtain ⟨-, hskp⟩ := (execSkpVx_cases x s).resolve_left fun ⟨hkey, _⟩ => by omega
    obtain ⟨-, hsknp⟩ := (execSknpVx_cases x s).resolve_left fun ⟨hkey, _⟩ => by omega
    rw [exec, exec, hskp, hsknp]
    exact ⟨congrArg _ (s.raise_keyIndexRange (encodeXnn_eq_ofNat_selector 0xE x 0x9E) _),
      congrArg _ (s.raise_keyIndexRange (encodeXnn_eq_ofNat_selector 0xE x 0xA1) _)⟩

end Sys2Proof.Proofs
end

section
/-!
SUPPORT. The drawing instructions one by one (45_draw.md R220 to R226): the sprite at `I` composited on the grid, cell
by cell, and the two ways that `Dxyn` ends.
-/

namespace Sys2Proof

/-- The word of `Dxyn` as a number (R91). -/
theorem encode_drwVxVyN_eq_ofNat (x y : Reg) (n : BitVec 4) :
    encode (.drwVxVyN x y n) = BitVec.ofNat 16 (0xD000 + 256 * x.val + 16 * y.val + n.toNat) := by
  have hword := ofNat_eq_encodeXyn 0xD x y n.isLt
  rw [BitVec.ofNat_toNat, BitVec.setWidth_eq] at hword
  exact hword.symm

end Sys2Proof

namespace Sys2Proof.Machine

theorem flagByte_eq_one_iff {c : Bool} : flagByte c = 1 ↔ c = true := by
  cases c <;> decide

variable {s t : State} {x y : Reg} {n : BitVec 4}

/-! ### Where a sprite lands (R221, R222) -/

/-- The sprite covers a cell when the bit of its own row byte that lands on the cell's column is set. -/
theorem State.spriteCovers_eq (s : State) (x y : Reg) (rows cx cy : Nat) :
    s.spriteCovers x y rows cx cy =
      (decide ((s.getV y).toNat % 32 ≤ cy ∧ cy < (s.getV y).toNat % 32 + rows) &&
        spriteBit (s.mem.read (s.i.toNat + (cy - (s.getV y).toNat % 32))) ((s.getV x).toNat % 64) cx) := by
  rw [State.spriteCovers, spriteBit, ← Bool.and_assoc, ← Bool.decide_and]
  exact congrArg (· && _) (decide_eq_decide.2 (by omega))

/-- A sprite lands on the same cells of two states that agree on its place and on its bytes. -/
theorem State.spriteCovers_congr (hx : t.getV x = s.getV x) (hy : t.getV y = s.getV y) (hi : t.i = s.i)
    (hmem : t.mem = s.mem) (rows cx cy : Nat) : t.spriteCovers x y rows cx cy = s.spriteCovers x y rows cx cy := by
  rw [State.spriteCovers, State.spriteCovers, hx, hy, hi, hmem]

/-! ### The sprite composited (R223 to R225) -/

/-- The grid with up to `rows` rows of the sprite at `I` composited at `(Vx mod 64, Vy mod 32)`, and whether one of
their set bits landed on a set cell. -/
def State.compositeSprite (s : State) (x y : Reg) (rows : Nat) : Grid × Bool :=
  composeRows s.mem ((s.getV x).toNat % 64) rows ((s.getV y).toNat % 32) (s.dataAddress 0) (s.gfx, false)

theorem State.compositeSprite_pixel (s : State) (x y : Reg) (rows : Nat) {cx cy : Nat} (hx : cx < 64) (hy : cy < 32) :
    pixelAt (s.compositeSprite x y rows).1 cx cy = (pixelAt s.gfx cx cy ^^ s.spriteCovers x y rows cx cy) := by
  rw [State.spriteCovers_eq]
  exact composeRows_pixel _ _ _ _ _ _ _ _ _ hx hy

theorem State.compositeSprite_hit (s : State) (x y : Reg) (rows : Nat) :
    (s.compositeSprite x y rows).2 = true ↔
      ∃ cx cy, cx < 64 ∧ cy < 32 ∧ s.spriteCovers x y rows cx cy = true ∧ pixelAt s.gfx cx cy = true := by
  simp only [State.spriteCovers_eq, Bool.and_eq_true, decide_eq_true_eq, and_assoc]
  exact (composeRows_hit _ _ _ _ _ _ _).trans (or_iff_right Bool.false_ne_true)

/-! ### The two ways that `Dxyn` ends (R225, R226) -/

/-- With the rows it draws in bounds `Dxyn` composites the sprite and writes the collision to `VF`. -/
theorem exec_drwVxVyN_of_valid (h : s.drawnRows y n = 0 ∨ s.i.toNat + s.drawnRows y n ≤ s.lsz.val) :
    exec (.drwVxVyN x y n) s =
      .next ((s.setGfx (s.compositeSprite x y n.toNat).1).setV regF
        (flagByte (s.compositeSprite x y n.toNat).2)) :=
  congrArg Host.Outcome.next ((drawRows_eq _ _ _ _ _ _ s).trans (if_pos h))

/-- With a drawn row out of bounds `Dxyn` composites the rows below `LSZ` and faults at the first address that is not
valid: the start of the sprite or `LSZ`, whichever is higher. -/
theorem exec_drwVxVyN_of_invalid (hdrawn : 0 < s.drawnRows y n) (hout : s.lsz.val < s.i.toNat + s.drawnRows y n) :
    exec (.drwVxVyN x y n) s =
      .next ((s.setGfx (s.compositeSprite x y (s.lsz.val - s.i.toNat)).1).raise (.memoryBoundsError .read)
        (encode (.drwVxVyN x y n)) (max s.i.toNat s.lsz.val)) :=
  have hinvalid : ¬(s.drawnRows y n = 0 ∨ s.i.toNat + s.drawnRows y n ≤ s.lsz.val) := by omega
  congrArg Host.Outcome.next ((drawRows_eq _ _ _ _ _ _ s).trans (if_neg hinvalid))

end Sys2Proof.Machine

namespace Sys2Proof.Proofs

open Sys2Proof.Machine

/-- Settles O29: the instruction is the sprite composited as a whole, with the collision as the flag. -/
theorem spriteDrawn : Obligations.SpriteDrawn := by
  intro x y n s hvalid
  refine ⟨_, exec_drwVxVyN_of_valid hvalid, rfl, fun cx cy hx hy => ?_, ?_, ?_, fun r hr => ?_⟩
  · exact s.compositeSprite_pixel x y n.toNat hx hy
  · rw [State.setV_getV_self]
    exact flagByte_eq_zero_or_one _
  · rw [State.setV_getV_self, flagByte_eq_one_iff]
    exact s.compositeSprite_hit x y n.toNat
  · exact State.setV_getV_ne _ hr _

/-- Settles O30: the rows below `LSZ` are a shorter sprite at the same place. -/
theorem drawFaultKeepsEarlierRows : Obligations.DrawFaultKeepsEarlierRows := by
  intro x y n s hdrawn hout
  refine ⟨_, exec_drwVxVyN_of_invalid hdrawn hout, rfl, ?_, fun cx cy hx hy => ?_⟩
  · rw [State.raise_flt, State.setGfx_pc, encode_drwVxVyN_eq_ofNat]
  · exact s.compositeSprite_pixel x y _ hx hy

/-- Settles O31: the first draw leaves the place and the bytes of the sprite, so the second inverts the same cells, and
a covered cell is set after the first draw exactly when it was not set before. -/
theorem drawingTwiceRestoresGrid : Obligations.DrawingTwiceRestoresGrid := by
  intro x y n s t hxF hyF hvalid h
  obtain ⟨_, he, hframe, hfirst, -, -, hregs⟩ := spriteDrawn x y n s hvalid
  cases he.symm.trans h
  have hcovers (cx cy : Nat) : t.spriteCovers x y n.toNat cx cy = s.spriteCovers x y n.toNat cx cy :=
    State.spriteCovers_congr (hregs x hxF) (hregs y hyF) (by rw [hframe]) (by rw [hframe]) _ _ _
  have hvalid' : t.drawnRows y n = 0 ∨ t.i.toNat + t.drawnRows y n ≤ t.lsz.val := by
    rw [State.drawnRows, hregs y hyF, hframe]
    exact hvalid
  obtain ⟨u, hu, -, hsecond, -, hflag, -⟩ := spriteDrawn x y n t hvalid'
  refine ⟨u, hu, grid_ext fun cx cy hx hy => ?_, hflag.trans ?_⟩
  · rw [hsecond cx cy hx hy, hfirst cx cy hx hy, hcovers, Bool.xor_assoc, Bool.xor_self, Bool.xor_false]
  · refine exists₂_congr fun cx cy => and_congr_right fun hx => and_congr_right fun hy => ?_
    rw [hcovers]
    refine and_congr_right fun hset => ?_
    rw [hfirst cx cy hx hy, hset, Bool.xor_true, Bool.not_eq_true']

/-- Settles O28: the clear grid has no set cell. -/
theorem clearScreen : Obligations.ClearScreen :=
  fun _ => ⟨decode_encode .cls, _, rfl, rfl, fun x y _ _ => pixelAt_clearGrid x y⟩

end Sys2Proof.Proofs
end

section
/-!
SUPPORT. The random instruction (46_random.md R240).
-/

namespace Sys2Proof.Proofs

open Sys2Proof.Machine

/-- Settles O33: the masked byte is written before the source presents its next byte, which leaves the registers. -/
theorem maskedRandomByte : Obligations.MaskedRandomByte := by
  intro x nn s
  have hx : ((s.setV x (s.ports.rand &&& nn)).sampleRand).getV x = s.ports.rand &&& nn := by
    rw [State.sampleRand_getV, State.setV_getV_self]
  refine ⟨decode_ofNat_of_encode (encodeXnn_toNat_digits 0xC x nn), _, rfl, rfl, hx, fun k hk => ?_, fun r hr => ?_⟩
  · rw [hx, BitVec.getLsbD_and, hk, Bool.and_false]
  · rw [State.sampleRand_getV, State.setV_getV_ne _ hr]

end Sys2Proof.Proofs
end

section
/-!
SUPPORT. The faults of the instructions (60_exceptions.md R250, R256): each row of the table against what its instruction
answers; and the step that meets an illegal opcode (R251).
-/

namespace Sys2Proof.Machine

variable {s t : State} {i : Instr} {op : Word}

theorem engineStep_of_decode_error {e : IllegalOpcode} (hrun : s.flt = none) (hf : s.fetch = .ok op)
    (hd : decode op = .error e) :
    engineStep s = .next (s.advance.raise .decodeError op (illegalCode e)) := by
  simp only [engineStep, hrun, hf, hd]

theorem State.skipIf_flt (s : State) (c : Bool) : (s.skipIf c).flt = s.flt := by
  rw [State.skipIf_eq]

theorem storeBytes_flt_of_valid {a : Nat} {bs : List Byte} (hne : bs ≠ []) (h : a + bs.length ≤ s.lsz.val) :
    (storeBytes op s a bs).flt = s.flt := by
  rw [storeBytes_frame_of_valid hne h]

theorem loadRegs_regsUpTo_flt_of_valid {a : Nat} {x : Reg} (h : a + x.val < s.lsz.val) :
    (loadRegs op s a (regsUpTo x)).flt = s.flt := by
  rw [loadRegs_regsUpTo_frame_of_valid h]

/-- Everything an instruction can do to the fault record: outside its row of the table it leaves the record alone, and
in its row it records its own opcode and the `PC` it ran from. -/
theorem exec_flt_cases (h : exec i s = .next t) :
    (¬faultsAt i s ∧ t.flt = s.flt) ∨
    (faultsAt i s ∧ ∃ cause addr, t.flt = some { cause := cause, opcode := encode i, addr := addr, pc := s.pc }) := by
  cases i with
  | cls | jpNnn | jpV0Nnn | ldVxNn | addVxNn | ldVxVy | orVxVy | andVxVy | xorVxVy | addVxVy | subVxVy | shrVx
  | subnVxVy | shlVx | ldINnn | rndVxNn | ldVxDt | ldDtVx | ldStVx | ldFVx =>
    cases h
    exact .inl ⟨id, rfl⟩
  | seVxNn | sneVxNn | seVxVy | sneVxVy =>
    cases h
    exact .inl ⟨id, s.skipIf_flt _⟩
  | ldVxK x =>
    obtain ⟨-, -, he⟩ | ⟨_, -, -, he⟩ | ⟨_, -, -, he⟩ | ⟨_, _, -, -, he⟩ :=
      execLdVxK_cases x s <;> (cases he.symm.trans h; exact .inl ⟨id, rfl⟩)
  | callNnn nnn =>
    obtain ⟨hroom, he⟩ | ⟨hfull, he⟩ := execCallNnn_cases nnn s <;> cases he.symm.trans h
    · exact .inl ⟨hroom.ne, rfl⟩
    · exact .inr ⟨hfull, _, _, rfl⟩
  | ret =>
    obtain ⟨hlive, he⟩ | ⟨hempty, he⟩ := execRet_cases s <;> cases he.symm.trans h
    · exact .inl ⟨hlive.ne', rfl⟩
    · exact .inr ⟨hempty, _, _, rfl⟩
  | skpVx x =>
    obtain ⟨hkey, he⟩ | ⟨hbad, he⟩ := execSkpVx_cases x s <;> cases he.symm.trans h
    · exact .inl ⟨Nat.not_lt_of_ge (Nat.le_of_lt_succ hkey), s.skipIf_flt _⟩
    · exact .inr ⟨hbad, _, _, rfl⟩
  | sknpVx x =>
    obtain ⟨hkey, he⟩ | ⟨hbad, he⟩ := execSknpVx_cases x s <;> cases he.symm.trans h
    · exact .inl ⟨Nat.not_lt_of_ge (Nat.le_of_lt_succ hkey), s.skipIf_flt _⟩
    · exact .inr ⟨hbad, _, _, rfl⟩
  | addIVx x =>
    obtain ⟨hfit, he⟩ | ⟨hover, he⟩ := execAddIVx_cases x s <;> cases he.symm.trans h
    · exact .inl ⟨Nat.not_lt_of_ge hfit, rfl⟩
    · exact .inr ⟨hover, _, _, rfl⟩
  | drwVxVyN x y n =>
    by_cases hvalid : s.drawnRows y n = 0 ∨ s.i.toNat + s.drawnRows y n ≤ s.lsz.val
    · cases (exec_drwVxVyN_of_valid hvalid).symm.trans h
      exact .inl ⟨fun ⟨hdrawn, hout⟩ => by omega, rfl⟩
    · cases (exec_drwVxVyN_of_invalid (by omega) (by omega)).symm.trans h
      exact .inr ⟨⟨by omega, by omega⟩, _, _, rfl⟩
  | ldBVx x =>
    cases h
    have hne := bcdDigits_ne_nil (s.getV x)
    obtain hvalid | hout := Nat.lt_or_ge (s.i.toNat + 2) s.lsz.val
    · exact .inl ⟨Nat.not_le_of_lt hvalid, storeBytes_flt_of_valid hne hvalid⟩
    · exact .inr ⟨hout, _, _, storeBytes_flt_of_invalid rfl hne (Nat.lt_succ_of_le hout)⟩
  | ldMiVx x =>
    obtain hvalid | hout := Nat.lt_or_ge (s.i.toNat + x.val) s.lsz.val
    · cases (execLdMiVx_of_valid hvalid).symm.trans h
      exact .inl ⟨Nat.not_le_of_lt hvalid, rfl⟩
    · cases h
      have hbad : s.lsz.val < s.i.toNat + (s.bytesUpTo x).length := by rw [State.bytesUpTo_length]; omega
      exact .inr ⟨hout, _, _, storeBytes_flt_of_invalid rfl (s.bytesUpTo_ne_nil x) hbad⟩
  | ldVxMi x =>
    cases h
    obtain hvalid | hout := Nat.lt_or_ge (s.i.toNat + x.val) s.lsz.val
    · exact .inl ⟨Nat.not_le_of_lt hvalid, loadRegs_regsUpTo_flt_of_valid hvalid⟩
    · exact .inr ⟨hout, _, _, loadRegs_regsUpTo_flt_of_invalid rfl hout⟩

end Sys2Proof.Machine

namespace Sys2Proof.Proofs

open Sys2Proof.Machine

/-- Settles O39: from a state without a fault, the record that the instruction leaves is empty outside its row of the
table and its own in the row. -/
theorem faultsExactlyAsTabulated : Obligations.FaultsExactlyAsTabulated := by
  intro i s hs
  obtain ⟨t, h⟩ := exec_eq_next i s
  refine ⟨t, h, ?_⟩
  obtain ⟨hno, hflt⟩ | ⟨hfaults, cause, addr, hflt⟩ := exec_flt_cases h
  · rw [hflt, hs]
    exact ⟨iff_of_true rfl hno, nofun⟩
  · rw [hflt]
    exact ⟨iff_of_false nofun (not_not_intro hfaults), by rintro _ ⟨⟩; exact ⟨rfl, rfl⟩⟩

/-- Settles O35: the fetch answers the word, and the step raises `DecodeError` from the advanced state, with the
sub-kind as its number. -/
theorem illegalOpcodeTaken : Obligations.IllegalOpcodeTaken := by
  intro s op e hf hd
  rw [step_of_stepComesNext hf.stepNext,
    engineStep_of_decode_error (s := { s with agenda := s.agenda.tail }) hf.running hf.fetch_eq hd]
  cases e with
  | unknownOpcode | unknownOperation | malformedOpcode => rfl

end Sys2Proof.Proofs
end

section
/-!
SUPPORT. Which instructions own which piece of the special state (60_exceptions.md R269): an instruction's next state
as the state before with the pieces that the instruction owns replaced.
-/

namespace Sys2Proof.Machine

variable {s t : State} {i : Instr}

/-- The state `s` with what the instruction may write taken from `t`. The general registers, `PC`, the fault record and
the random source are not special state (R269) and are always taken from `t`. -/
def State.withOwned (i : Instr) (s t : State) : State where
  v := t.v
  i := bif writesI i then t.i else s.i
  pc := t.pc
  sp := bif usesStack i then t.sp else s.sp
  dt := bif writesDelay i then t.dt else s.dt
  st := bif writesSound i then t.st else s.st
  stk := bif usesStack i then t.stk else s.stk
  top := bif usesStack i then t.top else s.top
  mem := { s.mem with cells := bif storesMemory i then t.mem.cells else s.mem.cells }
  lsz := s.lsz
  gfx := bif writesPixels i then t.gfx else s.gfx
  kw := bif usesKeyWait i then t.kw else s.kw
  flt := t.flt
  ports := { s.ports with rand := t.ports.rand }
  releaseMatch := s.releaseMatch
  agenda := s.agenda
  draws := t.draws

/-! ### A piece that the instruction does not own -/

theorem State.withOwned_i (h : writesI i = false) : (s.withOwned i t).i = s.i := by
  simp only [State.withOwned, h, cond_false]

theorem State.withOwned_sp (h : usesStack i = false) : (s.withOwned i t).sp = s.sp := by
  simp only [State.withOwned, h, cond_false]

theorem State.withOwned_stk (h : usesStack i = false) : (s.withOwned i t).stk = s.stk := by
  simp only [State.withOwned, h, cond_false]

theorem State.withOwned_top (h : usesStack i = false) : (s.withOwned i t).top = s.top := by
  simp only [State.withOwned, h, cond_false]

theorem State.withOwned_dt (h : writesDelay i = false) : (s.withOwned i t).dt = s.dt := by
  simp only [State.withOwned, h, cond_false]

theorem State.withOwned_st (h : writesSound i = false) : (s.withOwned i t).st = s.st := by
  simp only [State.withOwned, h, cond_false]

theorem State.withOwned_kw (h : usesKeyWait i = false) : (s.withOwned i t).kw = s.kw := by
  simp only [State.withOwned, h, cond_false]

theorem State.withOwned_gfx (h : writesPixels i = false) : (s.withOwned i t).gfx = s.gfx := by
  simp only [State.withOwned, h, cond_false]

theorem State.withOwned_mem (h : storesMemory i = false) : (s.withOwned i t).mem = s.mem := by
  simp only [State.withOwned, h, cond_false]

/-! ### Every instruction keeps to what it owns -/

/-- A store writes cells, never the font (20_memory.md R71). -/
theorem storeBytes_font (op : Word) (s : State) (a : Nat) (bs : List Byte) :
    (storeBytes op s a bs).mem.font = s.mem.font := by
  induction bs generalizing s a with
  | nil => rfl
  | cons b bs ih =>
    simp only [storeBytes]
    cases hw : s.memWrite a b with
    | none => rfl
    | some t =>
      obtain ⟨-, rfl⟩ := State.memWrite_eq_some.1 hw
      exact (ih _ _).trans (Memory.write_font _ _ _)

/-- Storing bytes writes cells of memory, or the fault record, and nothing else. -/
theorem storeBytes_frame_cells (op : Word) (s : State) (a : Nat) (bs : List Byte) :
    storeBytes op s a bs =
      { s with mem := ⟨s.mem.font, (storeBytes op s a bs).mem.cells⟩, flt := (storeBytes op s a bs).flt } := by
  rw [← storeBytes_font op s a bs]
  exact storeBytes_frame op s a bs

/-- An instruction changes no special state but what it owns. -/
theorem exec_eq_withOwned (h : exec i s = .next t) : t = s.withOwned i t := by
  cases i with
  | cls | jpNnn | jpV0Nnn | ldVxNn | addVxNn | ldVxVy | orVxVy | andVxVy | xorVxVy | addVxVy | subVxVy | shrVx
  | subnVxVy | shlVx | ldINnn | rndVxNn | ldVxDt | ldDtVx | ldStVx | ldFVx =>
    cases h
    rfl
  | seVxNn | sneVxNn | seVxVy | sneVxVy =>
    cases h
    rw [State.skipIf_eq]
    rfl
  | callNnn nnn =>
    obtain ⟨_, he⟩ | ⟨-, he⟩ := execCallNnn_cases nnn s <;> (cases he.symm.trans h; rfl)
  | ret =>
    obtain ⟨_, he⟩ | ⟨-, he⟩ := execRet_cases s <;> (cases he.symm.trans h; rfl)
  | skpVx x =>
    obtain ⟨_, he⟩ | ⟨-, he⟩ := execSkpVx_cases x s <;> cases he.symm.trans h
    · rw [State.skipIf_eq]
      rfl
    · rfl
  | sknpVx x =>
    obtain ⟨_, he⟩ | ⟨-, he⟩ := execSknpVx_cases x s <;> cases he.symm.trans h
    · rw [State.skipIf_eq]
      rfl
    · rfl
  | ldVxK x =>
    obtain ⟨-, -, he⟩ | ⟨_, -, -, he⟩ | ⟨_, -, -, he⟩ | ⟨_, _, -, -, he⟩ :=
      execLdVxK_cases x s <;> (cases he.symm.trans h; rfl)
  | addIVx x =>
    obtain ⟨-, he⟩ | ⟨-, he⟩ := execAddIVx_cases x s <;> (cases he.symm.trans h; rfl)
  | drwVxVyN =>
    cases h
    rw [drawRows_frame]
    rfl
  | ldBVx | ldMiVx =>
    cases h
    rw [storeBytes_frame_cells]
    rfl
  | ldVxMi =>
    cases h
    rw [loadRegs_frame]
    rfl

end Sys2Proof.Machine

namespace Sys2Proof.Proofs

open Sys2Proof.Machine

/-- Settles O53: the next state is the state before with the owned pieces replaced, piece by piece. -/
theorem specialStateHasItsOwners : Obligations.SpecialStateHasItsOwners := by
  intro i s t h
  rw [exec_eq_withOwned h]
  exact ⟨State.withOwned_i,
    fun hi => ⟨State.withOwned_stk hi, State.withOwned_top hi, State.withOwned_sp hi⟩,
    State.withOwned_dt, State.withOwned_st, State.withOwned_kw, State.withOwned_gfx,
    fun hi a => congrArg (Memory.read · a) (State.withOwned_mem hi), rfl, rfl, rfl, rfl, rfl, rfl, rfl⟩

end Sys2Proof.Proofs
end

section
/-!
SUPPORT. A jump to its own address (70_reset_and_hazards.md R305), and the reset event (R290).
-/

namespace Sys2Proof.Proofs

open Sys2Proof.Machine

/-- Settles O56: a `PC` below `0x1000` is its own 12-bit target, so the jump undoes the advance. -/
theorem selfJumpChangesNothing : Obligations.SelfJumpChangesNothing := by
  intro s hpc hf
  have hnnn : (BitVec.ofNat 12 s.pc.toNat).toNat = s.pc.toNat := Nat.mod_eq_of_lt hpc
  have htarget : zext16 (BitVec.ofNat 12 s.pc.toNat) = s.pc := BitVec.eq_of_toNat_eq ((zext16_toNat _).trans hnnn)
  have hword : decode (BitVec.ofNat 16 (0x1000 + s.pc.toNat)) = .ok (.jpNnn (BitVec.ofNat 12 s.pc.toNat)) :=
    decode_ofNat_of_encode ((encodeNnn_toNat 0x1 _).trans (congrArg (0x1000 + ·) hnnn))
  rw [stepRunsDecodedInstruction s _ _ hf hword, exec, execJpNnn, htarget]
  rfl

/-- Settles O41: a reset event answers `State.afterReset`, whose memory is the font of the run and zeros. -/
theorem resetEventDiscardsState : Obligations.ResetEventDiscardsState :=
  fun _ _ h => ⟨_, step_of_agenda_cons h, rfl, fun _ ha => Memory.read_initial_outside_font _ ha,
    Memory.read_initial_font _⟩

end Sys2Proof.Proofs
end
